-- ==== Sys2Proof/Word.lean ====
section
/-! DEFINITION. The two word types of the machine (`00_scope.md` R21). -/

namespace Sys2Proof

/-- A data register, an immediate byte, a byte of memory. -/
abbrev Byte := BitVec 8

/-- A register pair, SP, pc, an address. -/
abbrev Word := BitVec 16

end Sys2Proof
end

