-- ==== Sys2Proof/Config.lean ====
section
/-! DEFINITION. The free values of the spec: constants with no body, so that a proof holds whatever they are
(`93_implementation_defined.md` section 1, treatment "any value"). The parameters with a legal set of values are plain
data in `State.cfg` (log 1). -/

namespace Sys2Proof

/-- The memories whose power-on contents are a draw (`00_scope.md` R20, `INIT_MEM`). -/
inductive Region where
  | vram | wram | oam | hram | ext | bgPal | objPal
  deriving DecidableEq, Repr

/-- `INIT_MEM`: what byte `i` of a memory holds until something writes it (`10_state.md` R280, R290; log 3). -/
opaque Config.initMem : Region → Nat → Byte

/-- The byte of the `n`-th draw of a run: an audio register's read (`10_state.md` R158), a byte read under
`VIDEO_LOCK = unknown` (`20_memory.md` R322), the byte a serial transfer receives (`60_exceptions.md` R1720); log 4. -/
opaque Config.freeByte : Nat → Byte

/-- The yes or no of the `n`-th draw of a run: whether a write under `VIDEO_LOCK = unknown` is performed
(`20_memory.md` R322), whether a serial transfer ends (`60_exceptions.md` R1720); log 4. -/
opaque Config.freeBit : Nat → Bool

/-- What `MODE3_LEN` may look at for a line when it is a function of the line's state (`00_scope.md` R20; log 15). -/
structure LineState where
  ly      : Nat
  lcdc    : Byte
  scx     : Byte
  scy     : Byte
  wx      : Byte
  wy      : Byte
  winLine : Nat
  oam     : List (Nat × Byte)
  deriving DecidableEq, Repr

/-- `MODE3_LEN - 172` as a function of the line's state: any value of 0..117, so that the length lies in 172..289
(`00_scope.md` R20; log 15). -/
opaque Config.mode3Extra : LineState → Fin 118

end Sys2Proof
end

