-- ==== Sys2Proof/Syntax.lean ====
section
/-! DEFINITION. The instruction set as syntax: one constructor per row of `opcode_table.json`, with the operand
fields of `30_encoding.md` R510 and R520 already turned into names. -/

namespace Sys2Proof

/-- The r8 operand field (`00_scope.md` R35) without its value 6, which is the memory operand (HL) and has rows of its
own (`30_encoding.md` R511). -/
inductive Reg8 where
  | b | c | d | e | h | l | a
  deriving DecidableEq, Repr

/-- The r16 operand field (`30_encoding.md` R510). -/
inductive Reg16 where
  | bc | de | hl | sp
  deriving DecidableEq, Repr

/-- The r16stk operand field of PUSH and POP (`30_encoding.md` R510). -/
inductive Reg16Stk where
  | bc | de | hl | af
  deriving DecidableEq, Repr

/-- The condition field (`30_encoding.md` R510). -/
inductive Cond where
  | nz | z | nc | c
  deriving DecidableEq, Repr

/-- An instruction: the 103 forms, the prefix byte and the eleven illegal opcodes (`30_encoding.md` R543).
`n` is an unsigned byte, `e` a displacement byte, `nn` a 16-bit immediate or address, `x` the ignored byte of STOP. -/
inductive Instr where
  /-- `ADD A,r`, R610. -/
  | addAR (r : Reg8)
  /-- `ADD A,(HL)`, R611. -/
  | addAHl
  /-- `ADD A,n8`, R612. -/
  | addAN (n : Byte)
  /-- `ADC A,r`, R613. -/
  | adcAR (r : Reg8)
  /-- `ADC A,(HL)`, R614. -/
  | adcAHl
  /-- `ADC A,n8`, R615. -/
  | adcAN (n : Byte)
  /-- `SUB r`, R616. -/
  | subR (r : Reg8)
  /-- `SUB (HL)`, R617. -/
  | subHl
  /-- `SUB n8`, R618. -/
  | subN (n : Byte)
  /-- `SBC A,r`, R619. -/
  | sbcAR (r : Reg8)
  /-- `SBC A,(HL)`, R620. -/
  | sbcAHl
  /-- `SBC A,n8`, R621. -/
  | sbcAN (n : Byte)
  /-- `AND r`, R622. -/
  | andR (r : Reg8)
  /-- `AND (HL)`, R623. -/
  | andHl
  /-- `AND n8`, R624. -/
  | andN (n : Byte)
  /-- `XOR r`, R625. -/
  | xorR (r : Reg8)
  /-- `XOR (HL)`, R626. -/
  | xorHl
  /-- `XOR n8`, R627. -/
  | xorN (n : Byte)
  /-- `OR r`, R628. -/
  | orR (r : Reg8)
  /-- `OR (HL)`, R629. -/
  | orHl
  /-- `OR n8`, R630. -/
  | orN (n : Byte)
  /-- `CP r`, R631. -/
  | cpR (r : Reg8)
  /-- `CP (HL)`, R632. -/
  | cpHl
  /-- `CP n8`, R633. -/
  | cpN (n : Byte)
  /-- `INC r`, R640. -/
  | incR (r : Reg8)
  /-- `INC (HL)`, R641. -/
  | incHl
  /-- `DEC r`, R642. -/
  | decR (r : Reg8)
  /-- `DEC (HL)`, R643. -/
  | decHl
  /-- `DAA`, R650. -/
  | daa
  /-- `CPL`, R651. -/
  | cpl
  /-- `SCF`, R652. -/
  | scf
  /-- `CCF`, R653. -/
  | ccf
  /-- `ADD HL,rr`, R710. -/
  | addHlRr (p : Reg16)
  /-- `INC rr`, R711. -/
  | incRr (p : Reg16)
  /-- `DEC rr`, R712. -/
  | decRr (p : Reg16)
  /-- `ADD SP,e8`, R713. -/
  | addSpE (e : Byte)
  /-- `LD HL,SP+e8`, R714. -/
  | ldHlSpE (e : Byte)
  /-- `RLCA`, R810. -/
  | rlca
  /-- `RRCA`, R811. -/
  | rrca
  /-- `RLA`, R812. -/
  | rla
  /-- `RRA`, R813. -/
  | rra
  /-- `RLC r`, R820. -/
  | rlcR (r : Reg8)
  /-- `RLC (HL)`, R821. -/
  | rlcHl
  /-- `RRC r`, R822. -/
  | rrcR (r : Reg8)
  /-- `RRC (HL)`, R823. -/
  | rrcHl
  /-- `RL r`, R824. -/
  | rlR (r : Reg8)
  /-- `RL (HL)`, R825. -/
  | rlHl
  /-- `RR r`, R826. -/
  | rrR (r : Reg8)
  /-- `RR (HL)`, R827. -/
  | rrHl
  /-- `SLA r`, R828. -/
  | slaR (r : Reg8)
  /-- `SLA (HL)`, R829. -/
  | slaHl
  /-- `SRA r`, R830. -/
  | sraR (r : Reg8)
  /-- `SRA (HL)`, R831. -/
  | sraHl
  /-- `SWAP r`, R832. -/
  | swapR (r : Reg8)
  /-- `SWAP (HL)`, R833. -/
  | swapHl
  /-- `SRL r`, R834. -/
  | srlR (r : Reg8)
  /-- `SRL (HL)`, R835. -/
  | srlHl
  /-- `BIT b,r`, R910. -/
  | bitR (k : BitVec 3) (r : Reg8)
  /-- `BIT b,(HL)`, R911. -/
  | bitHl (k : BitVec 3)
  /-- `RES b,r`, R912. -/
  | resR (k : BitVec 3) (r : Reg8)
  /-- `RES b,(HL)`, R913. -/
  | resHl (k : BitVec 3)
  /-- `SET b,r`, R914. -/
  | setR (k : BitVec 3) (r : Reg8)
  /-- `SET b,(HL)`, R915. -/
  | setHl (k : BitVec 3)
  /-- `LD r,r'`, R1010. -/
  | ldRR (dst : Reg8) (src : Reg8)
  /-- `LD r,(HL)`, R1011. -/
  | ldRHl (dst : Reg8)
  /-- `LD (HL),r`, R1012. -/
  | ldHlR (src : Reg8)
  /-- `LD r,n8`, R1013. -/
  | ldRN (dst : Reg8) (n : Byte)
  /-- `LD (HL),n8`, R1014. -/
  | ldHlN (n : Byte)
  /-- `LD A,(BC)`, R1020. -/
  | ldABc
  /-- `LD A,(DE)`, R1021. -/
  | ldADe
  /-- `LD A,(HL+)`, R1022. -/
  | ldAHli
  /-- `LD A,(HL-)`, R1023. -/
  | ldAHld
  /-- `LD (BC),A`, R1024. -/
  | ldBcA
  /-- `LD (DE),A`, R1025. -/
  | ldDeA
  /-- `LD (HL+),A`, R1026. -/
  | ldHliA
  /-- `LD (HL-),A`, R1027. -/
  | ldHldA
  /-- `LD A,(a16)`, R1030. -/
  | ldAA16 (nn : Word)
  /-- `LD (a16),A`, R1031. -/
  | ldA16A (nn : Word)
  /-- `LDH A,(a8)`, R1032. -/
  | ldhAA8 (n : Byte)
  /-- `LDH (a8),A`, R1033. -/
  | ldhA8A (n : Byte)
  /-- `LDH A,(C)`, R1034. -/
  | ldhAC
  /-- `LDH (C),A`, R1035. -/
  | ldhCA
  /-- `LD rr,n16`, R1040. -/
  | ldRrN (p : Reg16) (nn : Word)
  /-- `LD (a16),SP`, R1041. -/
  | ldA16Sp (nn : Word)
  /-- `LD SP,HL`, R1042. -/
  | ldSpHl
  /-- `JP a16`, R1110. -/
  | jp (nn : Word)
  /-- `JP cc,a16`, R1111. -/
  | jpCc (cc : Cond) (nn : Word)
  /-- `JP HL`, R1112. -/
  | jpHl
  /-- `JR e8`, R1113. -/
  | jr (e : Byte)
  /-- `JR cc,e8`, R1114. -/
  | jrCc (cc : Cond) (e : Byte)
  /-- `CALL a16`, R1115. -/
  | call (nn : Word)
  /-- `CALL cc,a16`, R1116. -/
  | callCc (cc : Cond) (nn : Word)
  /-- `RET`, R1117. -/
  | ret
  /-- `RET cc`, R1118. -/
  | retCc (cc : Cond)
  /-- `RETI`, R1119. -/
  | reti
  /-- `RST t`, R1120. -/
  | rst (t : BitVec 3)
  /-- `PUSH rr`, R1210. -/
  | push (q : Reg16Stk)
  /-- `POP rr`, R1211. -/
  | pop (q : Reg16Stk)
  /-- `NOP`, R1310. -/
  | nop
  /-- `STOP`, R1311. -/
  | stop (x : Byte)
  /-- `HALT`, R1312. -/
  | halt
  /-- `DI`, R1313. -/
  | di
  /-- `EI`, R1314. -/
  | ei
  /-- `PREFIX CB`, R1315. -/
  | prefixCb
  /-- `ILLEGAL 0xD3`, R1316. -/
  | illegalD3
  /-- `ILLEGAL 0xDB`, R1316. -/
  | illegalDB
  /-- `ILLEGAL 0xDD`, R1316. -/
  | illegalDD
  /-- `ILLEGAL 0xE3`, R1316. -/
  | illegalE3
  /-- `ILLEGAL 0xE4`, R1316. -/
  | illegalE4
  /-- `ILLEGAL 0xEB`, R1316. -/
  | illegalEB
  /-- `ILLEGAL 0xEC`, R1316. -/
  | illegalEC
  /-- `ILLEGAL 0xED`, R1316. -/
  | illegalED
  /-- `ILLEGAL 0xF4`, R1316. -/
  | illegalF4
  /-- `ILLEGAL 0xFC`, R1316. -/
  | illegalFC
  /-- `ILLEGAL 0xFD`, R1316. -/
  | illegalFD
  deriving DecidableEq, Repr

end Sys2Proof
end

