-- ==== Sys2Proof/Machine/State.lean ====
section
/-! DEFINITION. Every piece of state `10_state.md` gives the machine, as plain data, the ways a step can stop, and the
state after reset. -/

namespace Sys2Proof.Machine

/-- Stored bytes by offset, offsets strictly rising; an offset that is not listed has not been written (log 3). -/
abbrev Memory := List Host.Cell

/-! ### Parameters (`00_scope.md` R20; log 1) -/

/-- The hardware model `HW`. -/
inductive Hw where
  | dmg | cgb
  deriving DecidableEq, Repr

/-- The video access policy `VIDEO_LOCK` (`20_memory.md` R322). -/
inductive VideoLock where
  | free | locked | unknown
  deriving DecidableEq, Repr

/-- `MODE3_LEN`: a constant `172 + extra`, or a function of the line's state (log 15). -/
inductive Mode3 where
  | constant (extra : Fin 118)
  | ofLine
  deriving DecidableEq, Repr

/-- The parameters a run is made with; no step changes them. -/
structure Params where
  hw        : Hw
  /-- CGB features active (`CGB_MODE`, derived at load). -/
  cgbMode   : Bool
  gapRead   : Byte
  videoLock : VideoLock
  mode3     : Mode3
  /-- `BOOTROM`, if present; an unlisted byte of it is 0x00. -/
  bootRom   : Option Memory
  deriving DecidableEq, Repr

/-! ### The CPU -/

/-- The flag register F: four flags; bits 3-0 read 0, so nothing holds them (`10_state.md` R110, R112). -/
structure Flags where
  z : Bool
  n : Bool
  h : Bool
  c : Bool
  deriving DecidableEq, Repr

/-- The eight 8-bit registers (`10_state.md` R100). -/
structure Regs where
  a : Byte
  f : Flags
  b : Byte
  c : Byte
  d : Byte
  e : Byte
  h : Byte
  l : Byte
  deriving DecidableEq, Repr

/-- A part of the machine an invariant violation names (`60_exceptions.md` R1431, R1432; log 8). -/
inductive Component where
  | dot | ly | winLine | mode3Len | romImage | bankLatch
  deriving DecidableEq, Repr

/-- The execution-fatal error record (`10_state.md` R125, `60_exceptions.md` R1431). -/
inductive Fatal where
  /-- An illegal opcode and its address (`47_system.md` R1316). -/
  | illegalOpcode (opcode : Byte) (address : Word)
  /-- An impossible internal state: the component and the offending value (`60_exceptions.md` R1432; log 8). -/
  | invariantViolation (component : Component) (value : Nat)
  deriving DecidableEq, Repr

/-- The features outside the spec that a program can reach (`60_exceptions.md` R1435). -/
inductive Unsupported where
  /-- A write of KEY1 with bit 0 = 1 (`10_state.md` R172). -/
  | speedSwitch
  /-- A write of HDMA5 (`10_state.md` R175). -/
  | vramDma
  /-- A write of DMA with a page of 0xE0 or above (`20_memory.md` R340). -/
  | oamDmaSource
  /-- An MBC3 external RAM access while a clock register is selected (`20_memory.md` R443). -/
  | mbc3Clock
  deriving DecidableEq, Repr

/-! ### Devices -/

/-- The timer (`10_state.md` R190). -/
structure Timer where
  counter : BitVec 16
  tima    : Byte
  tma     : Byte
  tac     : BitVec 3
  deriving DecidableEq, Repr

/-- The PPU mode, numbered in STAT bits 1-0 (`10_state.md` R161). -/
inductive PpuMode where
  | hblank | vblank | oamScan | transfer
  deriving DecidableEq, Repr

/-- A framebuffer value: a shade 0-3 in DMG mode, an RGB555 color in CGB mode (`60_exceptions.md` R1631, R1646). -/
abbrev Pixel := BitVec 15

/-- The picture unit's registers (`10_state.md` R160-R171) and internal state (R191). -/
structure Ppu where
  lcdc     : Byte
  /-- STAT bits 6-3. -/
  statSel  : BitVec 4
  coinc    : Bool
  mode     : PpuMode
  dot      : Nat
  ly       : Nat
  lyc      : Byte
  scy      : Byte
  scx      : Byte
  wy       : Byte
  wx       : Byte
  bgp      : Byte
  obp0     : Byte
  obp1     : Byte
  winLine  : Nat
  /-- The `MODE3_LEN` taken for the current line at dot 80 (`60_exceptions.md` R1601; log 15). -/
  mode3Len : Nat
  fb       : List (List Pixel)
  deriving DecidableEq, Repr

/-- The eight buttons, true while pressed (`10_state.md` R193). -/
structure Buttons where
  right  : Bool
  left   : Bool
  up     : Bool
  down   : Bool
  a      : Bool
  b      : Bool
  select : Bool
  start  : Bool
  deriving DecidableEq, Repr

/-- The joypad: P1's select bits 5-4 and the buttons (`10_state.md` R150, R193). -/
structure Joypad where
  sel     : BitVec 2
  pressed : Buttons
  deriving DecidableEq, Repr

/-- The serial port: SB and SC's bits 7, 1 and 0 (`10_state.md` R151, R152, R194). -/
structure Serial where
  sb       : Byte
  busy     : Bool
  fast     : Bool
  internal : Bool
  deriving DecidableEq, Repr

/-- A palette index register: bit 7 and bits 5-0 (`10_state.md` R177, R179). -/
structure PalIndex where
  auto  : Bool
  index : BitVec 6
  deriving DecidableEq, Repr

/-- The CGB-only registers that store something (`10_state.md` R173, R176-R182). -/
structure CgbRegs where
  vbk    : BitVec 1
  svbk   : BitVec 3
  /-- RP bits 7-6 and bit 0. -/
  rpHigh : BitVec 2
  rpLow  : BitVec 1
  bcps   : PalIndex
  ocps   : PalIndex
  opri   : BitVec 1
  deriving DecidableEq, Repr

/-- A cartridge bank controller: its type tag and its latches (`10_state.md` R192; `20_memory.md` R410-R450). -/
inductive Controller where
  /-- No latches (R410). -/
  | romOnly
  /-- RAMEN, BANK1, BANK2, MODE (R420). -/
  | mbc1 (ramen : Bool) (bank1 : BitVec 5) (bank2 : BitVec 2) (mode : Bool)
  /-- RAMEN, ROMB (R430). -/
  | mbc2 (ramen : Bool) (romb : BitVec 4)
  /-- RAMEN, ROMB, RAMB (R440). -/
  | mbc3 (ramen : Bool) (romb : BitVec 7) (ramb : BitVec 8)
  /-- Whether it is a rumble type; RAMEN, ROMB, RAMB (R450). -/
  | mbc5 (rumble : Bool) (ramen : Bool) (romb : BitVec 9) (ramb : BitVec 4)
  deriving DecidableEq, Repr

/-- The cartridge (`10_state.md` R134, R135, R192). An unlisted byte of the ROM image is 0x00 (log 2). -/
structure Cart where
  ctrl    : Controller
  battery : Bool
  rom     : Memory
  romLen  : Nat
  ram     : Memory
  ramLen  : Nat
  deriving DecidableEq, Repr

/-! ### The machine -/

/-- The state of the machine. -/
structure State where
  cfg         : Params
  regs        : Regs
  sp          : Word
  pc          : Word
  ime         : Bool
  eiDelay     : Fin 3
  halted      : Bool
  haltBug     : Bool
  stopped     : Bool
  fatal       : Option Fatal
  refused     : Option Unsupported
  /-- The cycle count the last step returned (`00_scope.md` R34; log 9). -/
  cycles      : Nat
  totalCycles : Nat
  /-- VRAM: bank k at offsets 0x2000 k (`10_state.md` R130). -/
  vram        : Memory
  /-- WRAM: bank k at offsets 0x1000 k (`10_state.md` R131). -/
  wram        : Memory
  oam         : Memory
  hram        : Memory
  bgPal       : Memory
  objPal      : Memory
  bootMapped  : Bool
  cart        : Cart
  /-- IF bits 4-0 (`10_state.md` R157). -/
  ifl         : BitVec 5
  ie          : Byte
  timer       : Timer
  ppu         : Ppu
  /-- The DMA register (`10_state.md` R166). -/
  dma         : Byte
  joypad      : Joypad
  serial      : Serial
  cgb         : CgbRegs
  /-- The model's own: how many draws have been made (log 4). -/
  draws       : Nat
  deriving DecidableEq, Repr

/-! ### How a step can stop -/

/-- The machine stops. -/
inductive Fault where
  /-- Raised by `step` from a state whose `fatal` is set: "no further step is taken" (`10_state.md` R125,
  `60_exceptions.md` R1430). Safe: the spec takes no step there either. -/
  | executionFatal (r : Fatal)
  deriving DecidableEq, Repr

/-- The model gives no meaning. -/
inductive Refusal where
  /-- Raised by an arm of `exec` whose instruction has no meaning yet; no arm is left. Safe: the run ends. -/
  | notModelled (mnemonic : String)
  /-- Raised by `step` from a state whose `refused` is set (`00_scope.md` R36, `60_exceptions.md` R1430, R1435).
  Safe: the spec gives such a run no meaning. -/
  | outOfScope (r : Unsupported)
  deriving DecidableEq, Repr

/-! ### Reset -/

/-- The blank framebuffer value (`60_exceptions.md` R1650). -/
def blankPixel (cgbMode : Bool) : Pixel := if cgbMode then 0x7FFF#15 else 0#15

/-- A framebuffer of 144 rows of 160 blank values (`60_exceptions.md` R1650). -/
def blankFrame (cgbMode : Bool) : List (List Pixel) :=
  List.replicate 144 (List.replicate 160 (blankPixel cgbMode))

/-- The state the machine starts in without a boot ROM, given its parameters and cartridge: the table of
`10_state.md` R290, everything else as R280. OBP0 and OBP1, which the table leaves a draw, are 0x00 (log 5). -/
def postBoot (cfg : Params) (cart : Cart) : State where
  cfg := cfg
  regs :=
    if cfg.cgbMode then
      { a := 0x11, f := ⟨true, false, false, false⟩, b := 0x00, c := 0x00, d := 0xFF, e := 0x56, h := 0x00, l := 0x0D }
    else
      { a := 0x01, f := ⟨true, false, true, true⟩, b := 0x00, c := 0x13, d := 0x00, e := 0xD8, h := 0x01, l := 0x4D }
  sp := 0xFFFE
  pc := 0x0100
  ime := false
  eiDelay := 0
  halted := false
  haltBug := false
  stopped := false
  fatal := none
  refused := none
  cycles := 0
  totalCycles := 0
  vram := []
  wram := []
  oam := []
  hram := []
  bgPal := []
  objPal := []
  bootMapped := false
  cart := cart
  ifl := 0x01
  ie := 0x00
  timer := { counter := 0xABCC, tima := 0x00, tma := 0x00, tac := 0 }
  ppu :=
    { lcdc := 0x91, statSel := 0, coinc := false, mode := .oamScan, dot := 0, ly := 0, lyc := 0x00, scy := 0x00,
      scx := 0x00, wy := 0x00, wx := 0x00, bgp := 0xFC, obp0 := 0x00, obp1 := 0x00, winLine := 0, mode3Len := 172,
      fb := blankFrame cfg.cgbMode }
  dma := 0xFF
  joypad := { sel := 0, pressed := ⟨false, false, false, false, false, false, false, false⟩ }
  serial := { sb := 0x00, busy := false, fast := false, internal := false }
  cgb := { vbk := 0, svbk := 0, rpHigh := 0, rpLow := 0, bcps := ⟨false, 0⟩, ocps := ⟨false, 0⟩, opri := 0 }
  draws := 0

/-- The state at power-on with a boot ROM present (`10_state.md` R280). The registers the spec gives no value are 0
(log 6). -/
def powerOn (cfg : Params) (cart : Cart) : State :=
  { postBoot cfg cart with
    regs := { a := 0, f := ⟨false, false, false, false⟩, b := 0, c := 0, d := 0, e := 0, h := 0, l := 0 }
    sp := 0
    pc := 0x0000
    bootMapped := true
    ifl := 0x00
    timer := { counter := 0, tima := 0x00, tma := 0x00, tac := 0 }
    ppu :=
      { lcdc := 0x00, statSel := 0, coinc := false, mode := .hblank, dot := 0, ly := 0, lyc := 0x00, scy := 0x00,
        scx := 0x00, wy := 0x00, wx := 0x00, bgp := 0x00, obp0 := 0x00, obp1 := 0x00, winLine := 0, mode3Len := 172,
        fb := blankFrame cfg.cgbMode }
    dma := 0x00 }

/-- The parameter defaults of `00_scope.md` R20. -/
def Params.default : Params :=
  { hw := .dmg, cgbMode := false, gapRead := 0xFF, videoLock := .free, mode3 := .constant 0, bootRom := none }

/-- A 32 KiB ROM-only cartridge of zero bytes, which the load checks of `20_memory.md` R403 accept: it stands for the
parameter `ROM`, which has no default (log 2). -/
def Cart.blank : Cart :=
  { ctrl := .romOnly, battery := false, rom := [], romLen := 0x8000, ram := [], ramLen := 0 }

/-- The machine right after reset: the post-boot state of the default parameters with the blank cartridge
(`70_reset_and_hazards.md` R1800). -/
def State.reset : State := postBoot Params.default Cart.blank

end Sys2Proof.Machine
end

