-- ==== Sys2Proof/Machine/Bits.lean ====
section
/-! DEFINITION. Bit fields and byte order (`00_scope.md` R30, R31, R33). -/

namespace Sys2Proof.Machine

/-- A byte from its bits, bit 7 first: `{b7, ..., b0}`. -/
def ofBits (b7 b6 b5 b4 b3 b2 b1 b0 : Bool) : Byte :=
  BitVec.ofBool b7 ++ BitVec.ofBool b6 ++ BitVec.ofBool b5 ++ BitVec.ofBool b4 ++ BitVec.ofBool b3 ++
    BitVec.ofBool b2 ++ BitVec.ofBool b1 ++ BitVec.ofBool b0

/-- `{hi, lo}` (`00_scope.md` R30). -/
def word (hi lo : Byte) : Word := hi ++ lo

/-- `v[7:0]`. -/
def lo8 (v : Word) : Byte := v.extractLsb' 0 8

/-- `v[15:8]`. -/
def hi8 (v : Word) : Byte := v.extractLsb' 8 8

/-- `sext_16` of a displacement byte (`00_scope.md` R31). -/
def sext16 (e : Byte) : Word := e.signExtend 16

/-- The address `0xFF00 + n` (`30_encoding.md` R520). -/
def highPage (n : Byte) : Word := word 0xFF n

/-- F as a byte: Z N H C in bits 7-4, 0 in bits 3-0 (`10_state.md` R110, R112). -/
def Flags.toByte (f : Flags) : Byte := ofBits f.z f.n f.h f.c false false false false

/-- What a write of `v` to F stores: `v & 0xF0` (`10_state.md` R112). -/
def Flags.ofByte (v : Byte) : Flags := ⟨v.getLsbD 7, v.getLsbD 6, v.getLsbD 5, v.getLsbD 4⟩

/-- The mode number STAT bits 1-0 read (`10_state.md` R161). -/
def PpuMode.code : PpuMode → BitVec 2
  | .hblank => 0
  | .vblank => 1
  | .oamScan => 2
  | .transfer => 3

end Sys2Proof.Machine
end

