-- ==== Sys2Proof/Machine/Flags.lean ====
section
/-! DEFINITION. Every flag computation: the 8-bit adder and subtractor, the ALU table, increments, decimal adjust, the
16-bit adders, shifts and bit tests, on unbounded integers as `00_scope.md` R30 says. -/

namespace Sys2Proof.Machine

/-- `add8(a, b, cin)` (`40_alu8.md` R601). -/
def add8 (a b : Byte) (cin : Bool) : Byte × Flags :=
  let t := a.toNat + b.toNat + cin.toNat
  let r := BitVec.ofNat 8 t
  (r, { z := r == 0
        n := false
        h := decide (a.toNat % 16 + b.toNat % 16 + cin.toNat > 0x0F)
        c := decide (t > 0xFF) })

/-- `sub8(a, b, cin)` (`40_alu8.md` R602). -/
def sub8 (a b : Byte) (cin : Bool) : Byte × Flags :=
  let t : Int := (a.toNat : Int) - b.toNat - cin.toNat
  let r := BitVec.ofInt 8 t
  (r, { z := r == 0
        n := true
        h := decide (a.toNat % 16 < b.toNat % 16 + cin.toNat)
        c := decide (a.toNat < b.toNat + cin.toNat) })

/-- The flags of a logical result: Z from it, N and C 0 (`40_alu8.md` R604). -/
def logicFlags (r : Byte) (h : Bool) : Flags := { z := r == 0, n := false, h := h, c := false }

/-- The eight operations of the ALU field (`30_encoding.md` R510). -/
inductive AluOp where
  | add | adc | sub | sbc | and | xor | or | cp
  deriving DecidableEq, Repr

/-- The ALU table: the byte left in A and the flags (`40_alu8.md` R604). -/
def AluOp.apply (op : AluOp) (a b : Byte) (cin : Bool) : Byte × Flags :=
  match op with
  | .add => add8 a b false
  | .adc => add8 a b cin
  | .sub => sub8 a b false
  | .sbc => sub8 a b cin
  | .and => (a &&& b, logicFlags (a &&& b) true)
  | .xor => (a ^^^ b, logicFlags (a ^^^ b) false)
  | .or => (a ||| b, logicFlags (a ||| b) false)
  | .cp => (a, (sub8 a b false).2)

/-- The flags of an 8-bit increment of `v`, C kept (`40_alu8.md` R640). -/
def incFlags (v : Byte) (f : Flags) : Flags :=
  { f with z := v + 1 == 0, n := false, h := decide (v.toNat % 16 = 0x0F) }

/-- The flags of an 8-bit decrement of `v`, C kept (`40_alu8.md` R642). -/
def decFlags (v : Byte) (f : Flags) : Flags :=
  { f with z := v - 1 == 0, n := true, h := decide (v.toNat % 16 = 0) }

/-- DAA on A and F (`40_alu8.md` R650). -/
def daaResult (a : Byte) (f : Flags) : Byte × Flags :=
  if f.n then
    let a := if f.c then a - 0x60 else a
    let a := if f.h then a - 0x06 else a
    (a, { f with z := a == 0, h := false })
  else
    let big := f.c || decide (a.toNat > 0x99)
    let a := if big then a + 0x60 else a
    let a := if f.h || decide (a.toNat % 16 > 0x09) then a + 0x06 else a
    (a, { f with z := a == 0, h := false, c := big })

/-- The sum and flags of ADD HL,rr, Z kept (`41_alu16.md` R710). -/
def add16 (a b : Word) (f : Flags) : Word × Flags :=
  let t := a.toNat + b.toNat
  (BitVec.ofNat 16 t,
    { f with n := false
             h := decide (a.toNat % 0x1000 + b.toNat % 0x1000 > 0x0FFF)
             c := decide (t > 0xFFFF) })

/-- `spAdd(e)`: the sum is signed, the flags are those of the unsigned low-byte addition (`41_alu16.md` R700). -/
def spAdd (sp : Word) (e : Byte) : Word × Flags :=
  (sp + sext16 e,
    { z := false
      n := false
      h := decide (sp.toNat % 16 + e.toNat % 16 > 0x0F)
      c := decide (sp.toNat % 256 + e.toNat > 0xFF) })

/-- The eight shift operations (`42_rotate_shift.md` R800). -/
inductive ShiftOp where
  | rlc | rrc | rl | rr | sla | sra | swap | srl
  deriving DecidableEq, Repr

/-- `shiftOp(o, v, cin)`: the result and the carry out (`42_rotate_shift.md` R800). -/
def ShiftOp.apply (o : ShiftOp) (v : Byte) (cin : Bool) : Byte × Bool :=
  match o with
  | .rlc => (v <<< 1 ||| v >>> 7, v.getLsbD 7)
  | .rrc => (v >>> 1 ||| v <<< 7, v.getLsbD 0)
  | .rl => (v <<< 1 ||| (BitVec.ofBool cin).setWidth 8, v.getLsbD 7)
  | .rr => (v >>> 1 ||| (BitVec.ofBool cin).setWidth 8 <<< 7, v.getLsbD 0)
  | .sla => (v <<< 1, v.getLsbD 7)
  | .sra => (v >>> 1 ||| v &&& 0x80, v.getLsbD 0)
  | .swap => (v <<< 4 ||| v >>> 4, false)
  | .srl => (v >>> 1, v.getLsbD 0)

/-- The flags of a prefixed shift (`42_rotate_shift.md` R800). -/
def shiftFlags (r : Byte) (co : Bool) : Flags := { z := r == 0, n := false, h := false, c := co }

/-- The flags of an accumulator rotate: Z always 0 (`42_rotate_shift.md` R800). -/
def rotateFlags (co : Bool) : Flags := { z := false, n := false, h := false, c := co }

/-- The flags of BIT: Z the complement of the tested bit, C kept (`43_bit.md` R910). -/
def bitFlags (v : Byte) (k : BitVec 3) (f : Flags) : Flags :=
  { f with z := !v.getLsbD k.toNat, n := false, h := true }

/-- `1 << b` (`43_bit.md` R912). -/
def bitMask (k : BitVec 3) : Byte := 1#8 <<< k.toNat

end Sys2Proof.Machine
end

