-- ==== Sys2Proof/WellFormed.lean ====
section
/-! DEFINITION. What a complete instruction is, and how many bytes it takes (`30_encoding.md` R500, R531, R532).
The operand fields carry their own well-formedness (`Reg8` has no value 6), so one check is left: the prefix byte is
"not an instruction by itself" (`47_system.md` R1315). -/

namespace Sys2Proof

/-- The length in bytes of an instruction, prefix included (`30_encoding.md` R500). -/
def Instr.length : Instr → Nat
  | .addAR _ => 1
  | .addAHl => 1
  | .adcAR _ => 1
  | .adcAHl => 1
  | .subR _ => 1
  | .subHl => 1
  | .sbcAR _ => 1
  | .sbcAHl => 1
  | .andR _ => 1
  | .andHl => 1
  | .xorR _ => 1
  | .xorHl => 1
  | .orR _ => 1
  | .orHl => 1
  | .cpR _ => 1
  | .cpHl => 1
  | .incR _ => 1
  | .incHl => 1
  | .decR _ => 1
  | .decHl => 1
  | .daa => 1
  | .cpl => 1
  | .scf => 1
  | .ccf => 1
  | .addHlRr _ => 1
  | .incRr _ => 1
  | .decRr _ => 1
  | .rlca => 1
  | .rrca => 1
  | .rla => 1
  | .rra => 1
  | .ldRR _ _ => 1
  | .ldRHl _ => 1
  | .ldHlR _ => 1
  | .ldABc => 1
  | .ldADe => 1
  | .ldAHli => 1
  | .ldAHld => 1
  | .ldBcA => 1
  | .ldDeA => 1
  | .ldHliA => 1
  | .ldHldA => 1
  | .ldhAC => 1
  | .ldhCA => 1
  | .ldSpHl => 1
  | .jpHl => 1
  | .ret => 1
  | .retCc _ => 1
  | .reti => 1
  | .rst _ => 1
  | .push _ => 1
  | .pop _ => 1
  | .nop => 1
  | .halt => 1
  | .di => 1
  | .ei => 1
  | .prefixCb => 1
  | .illegalD3 => 1
  | .illegalDB => 1
  | .illegalDD => 1
  | .illegalE3 => 1
  | .illegalE4 => 1
  | .illegalEB => 1
  | .illegalEC => 1
  | .illegalED => 1
  | .illegalF4 => 1
  | .illegalFC => 1
  | .illegalFD => 1
  | .addAN _ => 2
  | .adcAN _ => 2
  | .subN _ => 2
  | .sbcAN _ => 2
  | .andN _ => 2
  | .xorN _ => 2
  | .orN _ => 2
  | .cpN _ => 2
  | .addSpE _ => 2
  | .ldHlSpE _ => 2
  | .rlcR _ => 2
  | .rlcHl => 2
  | .rrcR _ => 2
  | .rrcHl => 2
  | .rlR _ => 2
  | .rlHl => 2
  | .rrR _ => 2
  | .rrHl => 2
  | .slaR _ => 2
  | .slaHl => 2
  | .sraR _ => 2
  | .sraHl => 2
  | .swapR _ => 2
  | .swapHl => 2
  | .srlR _ => 2
  | .srlHl => 2
  | .bitR _ _ => 2
  | .bitHl _ => 2
  | .resR _ _ => 2
  | .resHl _ => 2
  | .setR _ _ => 2
  | .setHl _ => 2
  | .ldRN _ _ => 2
  | .ldHlN _ => 2
  | .ldhAA8 _ => 2
  | .ldhA8A _ => 2
  | .jr _ => 2
  | .jrCc _ _ => 2
  | .stop _ => 2
  | .ldAA16 _ => 3
  | .ldA16A _ => 3
  | .ldRrN _ _ => 3
  | .ldA16Sp _ => 3
  | .jp _ => 3
  | .jpCc _ _ => 3
  | .call _ => 3
  | .callCc _ _ => 3

/-- A complete instruction: any constructor but the bare prefix byte (`47_system.md` R1315). -/
def Instr.wellFormed (i : Instr) : Bool := i != .prefixCb

end Sys2Proof
end

