-- ==== Sys2Proof/Decode.lean ====
section
/-! DEFINITION. The decoder (`30_encoding.md` R550), structured by the fields of R502, and after it the encoder.
Every byte value decodes (R543): the eleven illegal opcodes and the prefix byte have constructors of their own. -/

namespace Sys2Proof

/-! ### Fields -/

/-- Bits 7-6 of an opcode byte: its quarter (`30_encoding.md` R502). -/
def quarterField (op : Byte) : Fin 4 := (op.extractLsb' 6 2).toFin

/-- Bits 5-3, called y (`30_encoding.md` R502). -/
def yField (op : Byte) : Fin 8 := (op.extractLsb' 3 3).toFin

/-- Bits 2-0, called z (`30_encoding.md` R502). -/
def zField (op : Byte) : Fin 8 := (op.extractLsb' 0 3).toFin

/-- Bits 5-4, called p (`30_encoding.md` R502). -/
def pField (op : Byte) : Fin 4 := (op.extractLsb' 4 2).toFin

/-- Bit 3, called q (`30_encoding.md` R502). -/
def qField (op : Byte) : Bool := op.getLsbD 3

/-- Bits 4-3, the condition field (`30_encoding.md` R501). -/
def condField (op : Byte) : Fin 4 := (op.extractLsb' 3 2).toFin

/-- The r8 table; 6 is the memory operand (HL) (`30_encoding.md` R510). -/
def reg8Of : Fin 8 → Option Reg8
  | 0 => some .b | 1 => some .c | 2 => some .d | 3 => some .e
  | 4 => some .h | 5 => some .l | 6 => none | 7 => some .a

/-- The r16 table (`30_encoding.md` R510). -/
def reg16Of : Fin 4 → Reg16
  | 0 => .bc | 1 => .de | 2 => .hl | 3 => .sp

/-- The r16stk table (`30_encoding.md` R510). -/
def reg16StkOf : Fin 4 → Reg16Stk
  | 0 => .bc | 1 => .de | 2 => .hl | 3 => .af

/-- The condition table (`30_encoding.md` R510). -/
def condOf : Fin 4 → Cond
  | 0 => .nz | 1 => .z | 2 => .nc | 3 => .c

/-! ### The primary space (`30_encoding.md` R530) -/

/-- The ALU operation table on a register (`30_encoding.md` R510). -/
def aluRegInstr (r : Reg8) : Fin 8 → Instr
  | 0 => .addAR r | 1 => .adcAR r | 2 => .subR r | 3 => .sbcAR r
  | 4 => .andR r | 5 => .xorR r | 6 => .orR r | 7 => .cpR r

/-- The ALU operation table on the memory operand (`30_encoding.md` R510). -/
def aluHlInstr : Fin 8 → Instr
  | 0 => .addAHl | 1 => .adcAHl | 2 => .subHl | 3 => .sbcAHl
  | 4 => .andHl | 5 => .xorHl | 6 => .orHl | 7 => .cpHl

/-- The ALU operation table on an immediate (`30_encoding.md` R510). -/
def aluImmInstr (n : Byte) : Fin 8 → Instr
  | 0 => .addAN n | 1 => .adcAN n | 2 => .subN n | 3 => .sbcAN n
  | 4 => .andN n | 5 => .xorN n | 6 => .orN n | 7 => .cpN n

/-- `00yyyzzz`. -/
def decodeQuarter0 (op n : Byte) (nn : Word) : Instr :=
  let y := yField op
  let p := reg16Of (pField op)
  match zField op with
  | 0 => match y with
    | 0 => .nop
    | 1 => .ldA16Sp nn
    | 2 => .stop n
    | 3 => .jr n
    | 4 | 5 | 6 | 7 => .jrCc (condOf (condField op)) n
  | 1 => if qField op then .addHlRr p else .ldRrN p nn
  | 2 => match y with
    | 0 => .ldBcA
    | 1 => .ldABc
    | 2 => .ldDeA
    | 3 => .ldADe
    | 4 => .ldHliA
    | 5 => .ldAHli
    | 6 => .ldHldA
    | 7 => .ldAHld
  | 3 => if qField op then .decRr p else .incRr p
  | 4 => match reg8Of y with
    | some r => .incR r
    | none => .incHl
  | 5 => match reg8Of y with
    | some r => .decR r
    | none => .decHl
  | 6 => match reg8Of y with
    | some r => .ldRN r n
    | none => .ldHlN n
  | 7 => match y with
    | 0 => .rlca
    | 1 => .rrca
    | 2 => .rla
    | 3 => .rra
    | 4 => .daa
    | 5 => .cpl
    | 6 => .scf
    | 7 => .ccf

/-- `01yyyzzz`; both fields 6 is HALT (`30_encoding.md` R511). -/
def decodeQuarter1 (op : Byte) : Instr :=
  match reg8Of (yField op), reg8Of (zField op) with
  | some dst, some r => .ldRR dst r
  | some dst, none => .ldRHl dst
  | none, some r => .ldHlR r
  | none, none => .halt

/-- `10yyyzzz`. -/
def decodeQuarter2 (op : Byte) : Instr :=
  match reg8Of (zField op) with
  | some r => aluRegInstr r (yField op)
  | none => aluHlInstr (yField op)

/-- `11yyyzzz`, the prefix byte read as the row it has of its own. -/
def decodeQuarter3 (op n : Byte) (nn : Word) : Instr :=
  let y := yField op
  match zField op with
  | 0 => match y with
    | 0 | 1 | 2 | 3 => .retCc (condOf (condField op))
    | 4 => .ldhA8A n
    | 5 => .addSpE n
    | 6 => .ldhAA8 n
    | 7 => .ldHlSpE n
  | 1 => match y with
    | 0 | 2 | 4 | 6 => .pop (reg16StkOf (pField op))
    | 1 => .ret
    | 3 => .reti
    | 5 => .jpHl
    | 7 => .ldSpHl
  | 2 => match y with
    | 0 | 1 | 2 | 3 => .jpCc (condOf (condField op)) nn
    | 4 => .ldhCA
    | 5 => .ldA16A nn
    | 6 => .ldhAC
    | 7 => .ldAA16 nn
  | 3 => match y with
    | 0 => .jp nn
    | 1 => .prefixCb
    | 2 => .illegalD3
    | 3 => .illegalDB
    | 4 => .illegalE3
    | 5 => .illegalEB
    | 6 => .di
    | 7 => .ei
  | 4 => match y with
    | 0 | 1 | 2 | 3 => .callCc (condOf (condField op)) nn
    | 4 => .illegalE4
    | 5 => .illegalEC
    | 6 => .illegalF4
    | 7 => .illegalFC
  | 5 => match y with
    | 0 | 2 | 4 | 6 => .push (reg16StkOf (pField op))
    | 1 => .call nn
    | 3 => .illegalDD
    | 5 => .illegalED
    | 7 => .illegalFD
  | 6 => aluImmInstr n y
  | 7 => .rst (op.extractLsb' 3 3)

/-- The primary space: opcode, byte 2, and bytes 3 and 2 as a 16-bit immediate (`30_encoding.md` R520, R530). -/
def decodePrimary (op n : Byte) (nn : Word) : Instr :=
  match quarterField op with
  | 0 => decodeQuarter0 op n nn
  | 1 => decodeQuarter1 op
  | 2 => decodeQuarter2 op
  | 3 => decodeQuarter3 op n nn

/-! ### The secondary space (`30_encoding.md` R532) -/

/-- The shift operation table on a register (`30_encoding.md` R510). -/
def shiftRegInstr (r : Reg8) : Fin 8 → Instr
  | 0 => .rlcR r | 1 => .rrcR r | 2 => .rlR r | 3 => .rrR r
  | 4 => .slaR r | 5 => .sraR r | 6 => .swapR r | 7 => .srlR r

/-- The shift operation table on the memory operand (`30_encoding.md` R510). -/
def shiftHlInstr : Fin 8 → Instr
  | 0 => .rlcHl | 1 => .rrcHl | 2 => .rlHl | 3 => .rrHl
  | 4 => .slaHl | 5 => .sraHl | 6 => .swapHl | 7 => .srlHl

/-- The second byte of a prefixed instruction; every value is defined (`30_encoding.md` R541). -/
def decodeSecondary (op2 : Byte) : Instr :=
  let k := op2.extractLsb' 3 3
  match quarterField op2, reg8Of (zField op2) with
  | 0, some r => shiftRegInstr r (yField op2)
  | 0, none => shiftHlInstr (yField op2)
  | 1, some r => .bitR k r
  | 1, none => .bitHl k
  | 2, some r => .resR k r
  | 2, none => .resHl k
  | 3, some r => .setR k r
  | 3, none => .setHl k

/-! ### Decoding bytes -/

/-- How many bytes the instruction with this opcode has, from the first byte alone (`30_encoding.md` R500). -/
def lengthOf (op : Byte) : Nat :=
  if op = 0xCB#8 then 2 else (decodePrimary op 0 0).length

/-- The instruction whose bytes are `op`, `b2`, `b3`, those it has no use for ignored (`30_encoding.md` R550). -/
def decodeBytes (op b2 b3 : Byte) : Instr :=
  if op = 0xCB#8 then decodeSecondary b2 else decodePrimary op b2 (b3 ++ b2)

/-- Why a list of bytes is no instruction. -/
inductive DecodeError where
  /-- The list is empty. -/
  | noBytes
  /-- The list ends before the instruction does, which has `need` bytes. -/
  | truncated (need : Nat)
  deriving DecidableEq, Repr

/-- The decoder on a list of bytes: the instruction and the bytes after it. The prefix byte with nothing after it is
the row PREFIX CB, which is no complete instruction (`47_system.md` R1315; log 11). -/
def decode : List Byte → Except DecodeError (Instr × List Byte)
  | [] => .error .noBytes
  | op :: rest =>
    if op = 0xCB#8 ∧ rest = [] then .ok (.prefixCb, [])
    else if rest.length + 1 < lengthOf op then .error (.truncated (lengthOf op))
    else .ok (decodeBytes op (rest.getD 0 0) (rest.getD 1 0), rest.drop (lengthOf op - 1))

/-! ### Encoding -/

/-- The r8 field of a register (`30_encoding.md` R510). -/
def Reg8.field : Reg8 → Byte
  | .b => 0 | .c => 1 | .d => 2 | .e => 3 | .h => 4 | .l => 5 | .a => 7

/-- The r16 field (`30_encoding.md` R510). -/
def Reg16.field : Reg16 → Byte
  | .bc => 0 | .de => 1 | .hl => 2 | .sp => 3

/-- The r16stk field (`30_encoding.md` R510). -/
def Reg16Stk.field : Reg16Stk → Byte
  | .bc => 0 | .de => 1 | .hl => 2 | .af => 3

/-- The condition field (`30_encoding.md` R510). -/
def Cond.field : Cond → Byte
  | .nz => 0 | .z => 1 | .nc => 2 | .c => 3

/-- A three-bit field as a byte. -/
def field3 (k : BitVec 3) : Byte := k.setWidth 8

/-- The low byte, stored first (`20_memory.md` R301). -/
def lowByte (nn : Word) : Byte := nn.extractLsb' 0 8

/-- The high byte. -/
def highByte (nn : Word) : Byte := nn.extractLsb' 8 8

/-- The bytes of an instruction, from the encoding strings of `opcode_table.json`. -/
def encode : Instr → List Byte
  | .addAR r => [0x80 ||| r.field]
  | .addAHl => [0x86]
  | .addAN n => [0xC6, n]
  | .adcAR r => [0x88 ||| r.field]
  | .adcAHl => [0x8E]
  | .adcAN n => [0xCE, n]
  | .subR r => [0x90 ||| r.field]
  | .subHl => [0x96]
  | .subN n => [0xD6, n]
  | .sbcAR r => [0x98 ||| r.field]
  | .sbcAHl => [0x9E]
  | .sbcAN n => [0xDE, n]
  | .andR r => [0xA0 ||| r.field]
  | .andHl => [0xA6]
  | .andN n => [0xE6, n]
  | .xorR r => [0xA8 ||| r.field]
  | .xorHl => [0xAE]
  | .xorN n => [0xEE, n]
  | .orR r => [0xB0 ||| r.field]
  | .orHl => [0xB6]
  | .orN n => [0xF6, n]
  | .cpR r => [0xB8 ||| r.field]
  | .cpHl => [0xBE]
  | .cpN n => [0xFE, n]
  | .incR r => [0x04 ||| r.field <<< 3]
  | .incHl => [0x34]
  | .decR r => [0x05 ||| r.field <<< 3]
  | .decHl => [0x35]
  | .daa => [0x27]
  | .cpl => [0x2F]
  | .scf => [0x37]
  | .ccf => [0x3F]
  | .addHlRr p => [0x09 ||| p.field <<< 4]
  | .incRr p => [0x03 ||| p.field <<< 4]
  | .decRr p => [0x0B ||| p.field <<< 4]
  | .addSpE e => [0xE8, e]
  | .ldHlSpE e => [0xF8, e]
  | .rlca => [0x07]
  | .rrca => [0x0F]
  | .rla => [0x17]
  | .rra => [0x1F]
  | .rlcR r => [0xCB, 0x00 ||| r.field]
  | .rlcHl => [0xCB, 0x06]
  | .rrcR r => [0xCB, 0x08 ||| r.field]
  | .rrcHl => [0xCB, 0x0E]
  | .rlR r => [0xCB, 0x10 ||| r.field]
  | .rlHl => [0xCB, 0x16]
  | .rrR r => [0xCB, 0x18 ||| r.field]
  | .rrHl => [0xCB, 0x1E]
  | .slaR r => [0xCB, 0x20 ||| r.field]
  | .slaHl => [0xCB, 0x26]
  | .sraR r => [0xCB, 0x28 ||| r.field]
  | .sraHl => [0xCB, 0x2E]
  | .swapR r => [0xCB, 0x30 ||| r.field]
  | .swapHl => [0xCB, 0x36]
  | .srlR r => [0xCB, 0x38 ||| r.field]
  | .srlHl => [0xCB, 0x3E]
  | .bitR k r => [0xCB, 0x40 ||| (field3 k) <<< 3 ||| r.field]
  | .bitHl k => [0xCB, 0x46 ||| (field3 k) <<< 3]
  | .resR k r => [0xCB, 0x80 ||| (field3 k) <<< 3 ||| r.field]
  | .resHl k => [0xCB, 0x86 ||| (field3 k) <<< 3]
  | .setR k r => [0xCB, 0xC0 ||| (field3 k) <<< 3 ||| r.field]
  | .setHl k => [0xCB, 0xC6 ||| (field3 k) <<< 3]
  | .ldRR dst src => [0x40 ||| dst.field <<< 3 ||| src.field]
  | .ldRHl dst => [0x46 ||| dst.field <<< 3]
  | .ldHlR src => [0x70 ||| src.field]
  | .ldRN dst n => [0x06 ||| dst.field <<< 3, n]
  | .ldHlN n => [0x36, n]
  | .ldABc => [0x0A]
  | .ldADe => [0x1A]
  | .ldAHli => [0x2A]
  | .ldAHld => [0x3A]
  | .ldBcA => [0x02]
  | .ldDeA => [0x12]
  | .ldHliA => [0x22]
  | .ldHldA => [0x32]
  | .ldAA16 nn => [0xFA, lowByte nn, highByte nn]
  | .ldA16A nn => [0xEA, lowByte nn, highByte nn]
  | .ldhAA8 n => [0xF0, n]
  | .ldhA8A n => [0xE0, n]
  | .ldhAC => [0xF2]
  | .ldhCA => [0xE2]
  | .ldRrN p nn => [0x01 ||| p.field <<< 4, lowByte nn, highByte nn]
  | .ldA16Sp nn => [0x08, lowByte nn, highByte nn]
  | .ldSpHl => [0xF9]
  | .jp nn => [0xC3, lowByte nn, highByte nn]
  | .jpCc cc nn => [0xC2 ||| cc.field <<< 3, lowByte nn, highByte nn]
  | .jpHl => [0xE9]
  | .jr e => [0x18, e]
  | .jrCc cc e => [0x20 ||| cc.field <<< 3, e]
  | .call nn => [0xCD, lowByte nn, highByte nn]
  | .callCc cc nn => [0xC4 ||| cc.field <<< 3, lowByte nn, highByte nn]
  | .ret => [0xC9]
  | .retCc cc => [0xC0 ||| cc.field <<< 3]
  | .reti => [0xD9]
  | .rst t => [0xC7 ||| (field3 t) <<< 3]
  | .push q => [0xC5 ||| q.field <<< 4]
  | .pop q => [0xC1 ||| q.field <<< 4]
  | .nop => [0x00]
  | .stop x => [0x10, x]
  | .halt => [0x76]
  | .di => [0xF3]
  | .ei => [0xFB]
  | .prefixCb => [0xCB]
  | .illegalD3 => [0xD3]
  | .illegalDB => [0xDB]
  | .illegalDD => [0xDD]
  | .illegalE3 => [0xE3]
  | .illegalE4 => [0xE4]
  | .illegalEB => [0xEB]
  | .illegalEC => [0xEC]
  | .illegalED => [0xED]
  | .illegalF4 => [0xF4]
  | .illegalFC => [0xFC]
  | .illegalFD => [0xFD]

/-! ### The words of the opcode table -/

/-- The bytes of an instruction given as a word numbered as `opcode_table.json` numbers it, zero bytes after it up to the
longest instruction. A secondary row's word is `0xCB, second` read as 16 bits, 0xCB in bits 15-8 (`30_encoding.md`
R550); every other word has its first byte in bits 7-0. The prefix row's word is the prefix byte alone (log 11). -/
def tableBytes (nbits w : Nat) : List Byte :=
  let b0 := BitVec.ofNat 8 w
  let b1 := BitVec.ofNat 8 (w / 256)
  let b2 := BitVec.ofNat 8 (w / 65536)
  if nbits = 8 then [b0, 0, 0]
  else if nbits = 16 then if b1 = 0xCB#8 then [b1, b0, 0] else [b0, b1, 0]
  else [b0, b1, b2]

/-- The instruction the decoder reads from a table word (log 11). -/
def decodeTableWord (nbits w : Nat) : Option Instr :=
  let bytes := if nbits = 8 ∧ w = 0xCB then [0xCB#8] else tableBytes nbits w
  match decode bytes with
  | .ok (i, _) => some i
  | .error _ => none

end Sys2Proof
end

