-- ==== Sys2Proof/Machine/Memory.lean ====
section
/-! DEFINITION. Reading and writing stored bytes by offset. A memory is a list of (offset, byte) pairs with strictly
rising offsets; an unlisted offset holds what the memory held before anything wrote it (log 3). -/

namespace Sys2Proof.Machine

/-- The byte written at offset `k`, if any was. -/
def Memory.find? : Memory → Nat → Option Byte
  | [], _ => none
  | (j, b) :: m, k => if k = j then some b else Memory.find? m k

/-- The byte at offset `k`, `init k` while nothing has written it. -/
def Memory.get (m : Memory) (init : Nat → Byte) (k : Nat) : Byte := (Memory.find? m k).getD (init k)

/-- Store `v` at offset `k`, keeping the offsets strictly rising. -/
def Memory.write : Memory → Nat → Byte → Memory
  | [], k, v => [(k, v)]
  | (j, b) :: m, k, v =>
    if k < j then (k, v) :: (j, b) :: m
    else if k = j then (k, v) :: m
    else (j, b) :: Memory.write m k v

/-- Every offset of the list is above `k`. -/
def Memory.above (k : Nat) : Memory → Bool
  | [] => true
  | (j, _) :: _ => decide (k < j)

/-- The canonical form: offsets strictly rising. -/
def Memory.wf : Memory → Bool
  | [] => true
  | (j, _) :: m => Memory.above j m && Memory.wf m

/-- A memory holding the bytes of a list from offset `k` on. -/
def Memory.ofBytes (k : Nat) : List Byte → Memory
  | [] => []
  | b :: bs => (k, b) :: Memory.ofBytes (k + 1) bs

end Sys2Proof.Machine
end

