-- ==== Sys2Proof/Machine/Cart.lean ====
section
/-! DEFINITION. The cartridge: ROM reads, write commands and external RAM of each bank controller (`20_memory.md`
R400-R460). -/

namespace Sys2Proof.Machine

/-- The ROM bank a read at address `a` (below 0x8000) reaches. -/
def Controller.romBank (ctrl : Controller) (a : Nat) : Nat :=
  if a < 0x4000 then
    match ctrl with
    | .mbc1 _ _ bank2 mode => if mode then bank2.toNat * 32 else 0    -- R422
    | .romOnly | .mbc2 .. | .mbc3 .. | .mbc5 .. => 0                  -- R410, R432, R442, R451
  else
    match ctrl with
    | .romOnly => 1                                                   -- R410
    | .mbc1 _ bank1 bank2 _ => bank2.toNat * 32 + bank1.toNat         -- R422
    | .mbc2 _ romb => romb.toNat                                      -- R432
    | .mbc3 _ romb _ => romb.toNat                                    -- R442
    | .mbc5 _ _ romb _ => romb.toNat                                  -- R451

/-- The index into the ROM image a read at address `a` reaches, wrapping at the image's length (`20_memory.md` R401). -/
def Cart.romIndex (c : Cart) (a : Nat) : Nat := (c.ctrl.romBank a * 0x4000 + a % 0x4000) % c.romLen

/-- Byte `i` of the ROM image (log 2). -/
def Cart.romByte (c : Cart) (i : Nat) : Byte := Memory.get c.rom (fun _ => 0) i

/-- A bank latch that turns 0 into 1 (`20_memory.md` R421, R431, R441). -/
def atLeastOne {w : Nat} (v : BitVec w) : BitVec w := if v = 0 then 1 else v

/-- A write to the ROM range is a command to the controller (`20_memory.md` R312, R410, R421, R431, R441, R450). -/
def Controller.command (ctrl : Controller) (a : Nat) (v : Byte) : Controller :=
  match ctrl with
  | .romOnly => .romOnly
  | .mbc1 en b1 b2 md =>
    if a < 0x2000 then .mbc1 (v.extractLsb' 0 4 == 0xA) b1 b2 md
    else if a < 0x4000 then .mbc1 en (atLeastOne (v.extractLsb' 0 5)) b2 md
    else if a < 0x6000 then .mbc1 en b1 (v.extractLsb' 0 2) md
    else .mbc1 en b1 b2 (v.getLsbD 0)
  | .mbc2 en romb =>
    if a < 0x4000 then
      if a / 256 % 2 = 0 then .mbc2 (v.extractLsb' 0 4 == 0xA) romb
      else .mbc2 en (atLeastOne (v.extractLsb' 0 4))
    else .mbc2 en romb
  | .mbc3 en romb ramb =>
    if a < 0x2000 then .mbc3 (v.extractLsb' 0 4 == 0xA) romb ramb
    else if a < 0x4000 then .mbc3 en (atLeastOne (v.extractLsb' 0 7)) ramb
    else if a < 0x6000 then .mbc3 en romb v
    else .mbc3 en romb ramb
  | .mbc5 rumble en romb ramb =>
    if a < 0x2000 then .mbc5 rumble (v == 0x0A) romb ramb
    else if a < 0x3000 then .mbc5 rumble en (romb.extractLsb' 8 1 ++ v) ramb
    else if a < 0x4000 then .mbc5 rumble en (v.extractLsb' 0 1 ++ romb.extractLsb' 0 8) ramb
    else if a < 0x6000 then .mbc5 rumble en romb (if rumble then (v.extractLsb' 0 3).setWidth 4 else v.extractLsb' 0 4)
    else .mbc5 rumble en romb ramb

/-- What an access at 0xA000-0xBFFF reaches. -/
inductive ExtTarget where
  /-- Cell `i` of the external RAM, a byte wide. -/
  | ram (i : Nat)
  /-- Cell `i` of MBC2's RAM, four bits wide (`20_memory.md` R433). -/
  | nibble (i : Nat)
  /-- RAM disabled or absent (`20_memory.md` R314). -/
  | closed
  /-- An MBC3 clock register (`20_memory.md` R443). -/
  | clock
  deriving DecidableEq, Repr

/-- Bank `k` at offset `o` of a RAM of `len` bytes (`20_memory.md` R402); absent if `len` is 0. -/
def ramBank (len k o : Nat) : ExtTarget := if len = 0 then .closed else .ram ((k * 0x2000 + o) % len)

/-- What offset `o` of the external RAM window reaches (`20_memory.md` R410, R423, R433, R443, R452). -/
def Cart.extTarget (c : Cart) (o : Nat) : ExtTarget :=
  match c.ctrl with
  | .romOnly => ramBank c.ramLen 0 o
  | .mbc1 en _ bank2 mode => if en then ramBank c.ramLen (if mode then bank2.toNat else 0) o else .closed
  | .mbc2 en _ => if en then .nibble (o % 512) else .closed
  | .mbc3 en _ ramb =>
    if en then
      if ramb.toNat ≤ 3 then ramBank c.ramLen ramb.toNat o
      else if 8 ≤ ramb.toNat ∧ ramb.toNat ≤ 0x0C then .clock
      else .closed
    else .closed
  | .mbc5 _ en _ ramb => if en then ramBank c.ramLen ramb.toNat o else .closed

/-- Byte `i` of the external RAM. -/
def Cart.ramByte (c : Cart) (i : Nat) : Byte := Memory.get c.ram (Config.initMem .ext) i

/-- The byte a read of MBC2 cell `i` gives: `0xF0 | cell` (`20_memory.md` R433). -/
def Cart.nibbleByte (c : Cart) (i : Nat) : Byte := 0xF#4 ++ (c.ramByte i).extractLsb' 0 4

end Sys2Proof.Machine
end

