-- ==== Sys2Proof/Machine/Render.lean ====
section
/-! DEFINITION. The tilemap and sprite renderer: one row of the framebuffer as a function of the video memories and the
picture unit's registers (`60_exceptions.md` R1620-R1650). -/

namespace Sys2Proof.Machine

/-- What the renderer reads besides the picture unit: the video memories, whether CGB features are active, and the
`MODE3_LEN` parameter. -/
structure Video where
  vram   : Memory
  oam    : Memory
  bgPal  : Memory
  objPal : Memory
  cgb    : Bool
  mode3  : Mode3
  deriving DecidableEq, Repr

/-- Byte `i` of VRAM, bank k at 0x2000 k. -/
def Video.vramByte (v : Video) (i : Nat) : Byte := Memory.get v.vram (Config.initMem .vram) i

/-- Byte `i` of OAM. -/
def Video.oamByte (v : Video) (i : Nat) : Byte := Memory.get v.oam (Config.initMem .oam) i

/-! ### Tiles and maps -/

/-- The color index of column `col` (0 leftmost) of row `row` of the tile data at VRAM offset `t` of a bank
(`60_exceptions.md` R1621). -/
def Video.tileColor (v : Video) (bank t row col : Nat) : BitVec 2 :=
  let lo := v.vramByte (bank * 0x2000 + t + 2 * row)
  let hi := v.vramByte (bank * 0x2000 + t + 2 * row + 1)
  BitVec.ofBool (hi.getLsbD (7 - col)) ++ BitVec.ofBool (lo.getLsbD (7 - col))

/-- The VRAM offset of background or window tile `t`: `0x8000 + 16t`, or `0x9000 + 16 * sext(t)` when LCDC bit 4 is 0
(`60_exceptions.md` R1621). -/
def bgTileOffset (lcdc t : Byte) : Nat :=
  if lcdc.getLsbD 4 then 16 * t.toNat else (0x1000 + 16 * t.toInt).toNat

/-- The VRAM offset of a tile map: 0x9C00 or 0x9800 (`60_exceptions.md` R1622). -/
def mapOffset (high : Bool) : Nat := if high then 0x1C00 else 0x1800

/-- A background or window pixel: its color index, and its CGB map attribute (0 in DMG mode). -/
structure BgPixel where
  index : BitVec 2
  attr  : Byte
  deriving DecidableEq, Repr

/-- The pixel at (px, py) of the plane a tile map shows (`60_exceptions.md` R1622, R1640). -/
def Video.mapPixel (v : Video) (lcdc : Byte) (map px py : Nat) : BgPixel :=
  let cell := map + 32 * (py / 8) + px / 8
  let t := v.vramByte cell
  let attr := if v.cgb then v.vramByte (0x2000 + cell) else 0
  let bank := if attr.getLsbD 3 then 1 else 0
  let row := if attr.getLsbD 6 then 7 - py % 8 else py % 8
  let col := if attr.getLsbD 5 then 7 - px % 8 else px % 8
  { index := v.tileColor bank (bgTileOffset lcdc t) row col, attr := attr }

/-- Whether the window is shown on line `y` (`60_exceptions.md` R1623, R1630). -/
def Video.windowShown (v : Video) (p : Ppu) (y : Nat) : Bool :=
  p.lcdc.getLsbD 5 && decide (p.wy.toNat ≤ y) && decide (p.wx.toNat ≤ 166) && (v.cgb || p.lcdc.getLsbD 0)

/-- The background or window pixel at screen (x, y) (`60_exceptions.md` R1622, R1623, R1630). -/
def Video.bgPixel (v : Video) (p : Ppu) (x y : Nat) : BgPixel :=
  if !v.cgb && !p.lcdc.getLsbD 0 then { index := 0, attr := 0 }
  else if v.windowShown p y && decide (p.wx.toNat ≤ x + 7) then
    v.mapPixel p.lcdc (mapOffset (p.lcdc.getLsbD 6)) (x + 7 - p.wx.toNat) p.winLine
  else
    v.mapPixel p.lcdc (mapOffset (p.lcdc.getLsbD 3)) ((p.scx.toNat + x) % 256) ((p.scy.toNat + y) % 256)

/-! ### Colors -/

/-- The shade palette register `pal` gives a color index (`10_state.md` R167). -/
def shadeOf (pal : Byte) (index : BitVec 2) : Pixel := (pal.extractLsb' (2 * index.toNat) 2).setWidth 15

/-- Color `index` of palette `n` of a CGB palette memory: 15 bits, little-endian (`10_state.md` R137). -/
def paletteColor (mem : Memory) (r : Region) (n : Nat) (index : BitVec 2) : Pixel :=
  let i := 8 * n + 2 * index.toNat
  (word (Memory.get mem (Config.initMem r) (i + 1)) (Memory.get mem (Config.initMem r) i)).extractLsb' 0 15

/-- The value a background or window pixel shows (`60_exceptions.md` R1625, R1630, R1641). -/
def Video.bgColor (v : Video) (p : Ppu) (b : BgPixel) : Pixel :=
  if v.cgb then paletteColor v.bgPal .bgPal (b.attr.extractLsb' 0 3).toNat b.index
  else if p.lcdc.getLsbD 0 then shadeOf p.bgp b.index
  else 0

/-! ### Sprites -/

/-- An OAM entry (`10_state.md` R132). -/
structure Sprite where
  y    : Byte
  x    : Byte
  tile : Byte
  attr : Byte
  deriving DecidableEq, Repr

/-- OAM entry `i`. -/
def Video.sprite (v : Video) (i : Nat) : Sprite :=
  { y := v.oamByte (4 * i), x := v.oamByte (4 * i + 1), tile := v.oamByte (4 * i + 2), attr := v.oamByte (4 * i + 3) }

/-- The sprite height LCDC bit 2 gives (`60_exceptions.md` R1626). -/
def spriteHeight (lcdc : Byte) : Nat := if lcdc.getLsbD 2 then 16 else 8

/-- The sprites of line `y` in OAM order: the first 10 entries with `Y <= y + 16 < Y + h`, none while LCDC bit 1 is 0
(`60_exceptions.md` R1626). -/
def Video.lineSprites (v : Video) (p : Ppu) (y : Nat) : List Sprite :=
  if p.lcdc.getLsbD 1 then
    (((List.range 40).map v.sprite).filter fun s =>
      decide (s.y.toNat ≤ y + 16) && decide (y + 16 < s.y.toNat + spriteHeight p.lcdc)).take 10
  else []

/-- Whether a sprite covers screen column `x`: `X - 8 <= x < X` (`60_exceptions.md` R1627). -/
def Sprite.covers (s : Sprite) (x : Nat) : Bool := decide (s.x.toNat ≤ x + 8) && decide (x < s.x.toNat)

/-- The color index of a selected sprite at (x, y), which it covers (`60_exceptions.md` R1627, R1642). -/
def Video.spriteColor (v : Video) (p : Ppu) (s : Sprite) (x y : Nat) : BitVec 2 :=
  let h := spriteHeight p.lcdc
  let r := y + 16 - s.y.toNat
  let row := if s.attr.getLsbD 6 then h - 1 - r else r
  let c := x + 8 - s.x.toNat
  let col := if s.attr.getLsbD 5 then 7 - c else c
  let t := if h = 16 then s.tile &&& 0xFE else s.tile
  let bank := if v.cgb && s.attr.getLsbD 3 then 1 else 0
  v.tileColor bank (16 * t.toNat) row col

/-- The sprite that wins among candidates listed in OAM order: the lowest X, the lower OAM index on a tie
(`60_exceptions.md` R1628). -/
def lowestX : List Sprite → Option Sprite
  | [] => none
  | s :: rest =>
    match lowestX rest with
    | none => some s
    | some t => if t.x.toNat < s.x.toNat then some t else some s

/-- The sprite whose pixel decides column `x`, if any is opaque there: by X then OAM index in DMG mode, by OAM index
alone in CGB mode (`60_exceptions.md` R1628, R1645). -/
def Video.winner (v : Video) (p : Ppu) (sprites : List Sprite) (x y : Nat) : Option Sprite :=
  let solid := sprites.filter fun s => s.covers x && (v.spriteColor p s x y != 0)
  if v.cgb then solid.head? else lowestX solid

/-- Whether the background hides the winning sprite (`60_exceptions.md` R1628, R1644). -/
def Video.hides (v : Video) (p : Ppu) (b : BgPixel) (s : Sprite) : Bool :=
  b.index != 0 &&
    (if v.cgb then p.lcdc.getLsbD 0 && (b.attr.getLsbD 7 || s.attr.getLsbD 7) else s.attr.getLsbD 7)

/-- The value a sprite's pixel shows (`60_exceptions.md` R1628, R1642). -/
def Video.objColor (v : Video) (p : Ppu) (s : Sprite) (index : BitVec 2) : Pixel :=
  if v.cgb then paletteColor v.objPal .objPal (s.attr.extractLsb' 0 3).toNat index
  else shadeOf (if s.attr.getLsbD 4 then p.obp1 else p.obp0) index

/-- The framebuffer value at (x, y): background or window first, then sprites (`60_exceptions.md` R1620). -/
def Video.pixel (v : Video) (p : Ppu) (sprites : List Sprite) (x y : Nat) : Pixel :=
  let b := v.bgPixel p x y
  match v.winner p sprites x y with
  | none => v.bgColor p b
  | some s => if v.hides p b s then v.bgColor p b else v.objColor p s (v.spriteColor p s x y)

/-- The window's line counter after a row the window showed in: one more, in the range 0-143 `10_state.md` R191 gives it
(`60_exceptions.md` R1624; log 12). -/
def nextWinLine (n : Nat) : Nat := (n + 1) % 144

/-- `RenderLine(y)` (`60_exceptions.md` R1620), with the window's line counter advanced if the window supplied a pixel,
which it does whenever it is shown (R1624). -/
def Video.renderLine (v : Video) (p : Ppu) (y : Nat) : Ppu :=
  let sprites := v.lineSprites p y
  let row := (List.range 160).map fun x => v.pixel p sprites x y
  { p with fb := p.fb.set y row, winLine := if v.windowShown p y then nextWinLine p.winLine else p.winLine }

end Sys2Proof.Machine
end

