-- ==== Sys2Proof/Machine/Timer.lean ====
section
/-! DEFINITION. Interrupt requests and the timer (`60_exceptions.md` R1400-R1404, R1500-R1510). -/

namespace Sys2Proof.Machine

/-- `request(k)`: `IF[k] <- 1` (`60_exceptions.md` R1402). -/
def requestBit (ifl : BitVec 5) (k : Nat) : BitVec 5 := ifl ||| (1#5 <<< k)

/-- `request(k)` on the machine (`60_exceptions.md` R1402). -/
def State.request (s : State) (k : Nat) : State := { s with ifl := requestBit s.ifl k }

/-- The counter bit TAC bits 1-0 tap (`60_exceptions.md` R1502). -/
def Timer.tap (t : Timer) : Nat :=
  match (t.tac.extractLsb' 0 2).toFin with
  | 0 => 9
  | 1 => 3
  | 2 => 5
  | 3 => 7

/-- `sig = TAC[2] ∧ counter[tap]` (`60_exceptions.md` R1502). -/
def Timer.sig (t : Timer) : Bool := t.tac.getLsbD 2 && t.counter.getLsbD t.tap

/-- `IncTIMA()` on the timer and IF (`60_exceptions.md` R1504). -/
def incTima (t : Timer) (ifl : BitVec 5) : Timer × BitVec 5 :=
  if t.tima = 0xFF then ({ t with tima := t.tma }, requestBit ifl 2)
  else ({ t with tima := t.tima + 1 }, ifl)

/-- The change of the timer's counter or control from `t` to `t'`: TIMA counts if the signal fell
(`60_exceptions.md` R1503). -/
def edge (t t' : Timer) (ifl : BitVec 5) : Timer × BitVec 5 :=
  if t.sig && !t'.sig then incTima t' ifl else (t', ifl)

/-- One cycle of `TimerAdvance` (`60_exceptions.md` R1509). -/
def timerTick (t : Timer) (ifl : BitVec 5) : Timer × BitVec 5 := edge t { t with counter := t.counter + 1 } ifl

/-- `TimerAdvance(n)` on the timer and IF (`60_exceptions.md` R1509). -/
def timerRun : Nat → Timer → BitVec 5 → Timer × BitVec 5
  | 0, t, ifl => (t, ifl)
  | n + 1, t, ifl => timerRun n (timerTick t ifl).1 (timerTick t ifl).2

/-- `TimerAdvance(n)` (`60_exceptions.md` R1509). -/
def State.timerAdvance (s : State) (n : Nat) : State :=
  { s with timer := (timerRun n s.timer s.ifl).1, ifl := (timerRun n s.timer s.ifl).2 }

/-- The timer becomes `t'`, with its edge effect (`60_exceptions.md` R1503). -/
def State.setTimer (s : State) (t' : Timer) : State :=
  { s with timer := (edge s.timer t' s.ifl).1, ifl := (edge s.timer t' s.ifl).2 }

/-- `DivReset()` (`60_exceptions.md` R1505). -/
def State.divReset (s : State) : State := s.setTimer { s.timer with counter := 0 }

/-- A CPU write to TAC (`60_exceptions.md` R1506). -/
def State.writeTac (s : State) (v : Byte) : State := s.setTimer { s.timer with tac := v.extractLsb' 0 3 }

end Sys2Proof.Machine
end

