-- ==== Sys2Proof/Machine/Video.lean ====
section
/-! DEFINITION. The picture unit's line state machine and the CPU writes that act on it (`60_exceptions.md`
R1600-R1609). -/

namespace Sys2Proof.Machine

/-- The bit `request(1)` sets when `on` (`60_exceptions.md` R1604). -/
def statRequest (ifl : BitVec 5) (on : Bool) : BitVec 5 := if on then requestBit ifl 1 else ifl

/-- STAT bit 3, the mode-0 select (`10_state.md` R161). -/
def Ppu.selHblank (p : Ppu) : Bool := p.statSel.getLsbD 0

/-- STAT bit 4, the mode-1 select. -/
def Ppu.selVblank (p : Ppu) : Bool := p.statSel.getLsbD 1

/-- STAT bit 5, the mode-2 select. -/
def Ppu.selOam (p : Ppu) : Bool := p.statSel.getLsbD 2

/-- STAT bit 6, the LYC=LY select. -/
def Ppu.selLyc (p : Ppu) : Bool := p.statSel.getLsbD 3

/-- LCDC bit 7: the display is on. -/
def Ppu.on (p : Ppu) : Bool := p.lcdc.getLsbD 7

/-- `MODE3_LEN` for the current line (`00_scope.md` R20; log 15). -/
def Video.mode3Length (v : Video) (p : Ppu) : Nat :=
  match v.mode3 with
  | .constant extra => 172 + extra
  | .ofLine =>
    172 + Config.mode3Extra
      { ly := p.ly, lcdc := p.lcdc, scx := p.scx, scy := p.scy, wx := p.wx, wy := p.wy, winLine := p.winLine,
        oam := v.oam }

/-- The picture unit and IF, which is all it changes. -/
abbrev PpuIf := Ppu × BitVec 5

/-- Entry into mode 3 at dot 80, where `MODE3_LEN` is taken (`60_exceptions.md` R1601). -/
def Video.enterTransfer (v : Video) (x : PpuIf) : PpuIf :=
  ({ x.1 with mode := .transfer, mode3Len := v.mode3Length x.1 }, x.2)

/-- Entry into mode 0: the row is rendered (`60_exceptions.md` R1601). -/
def Video.enterHblank (v : Video) (x : PpuIf) : PpuIf :=
  (v.renderLine { x.1 with mode := .hblank } x.1.ly, statRequest x.2 x.1.selHblank)

/-- The coincidence flag and its request at a change of LY (`60_exceptions.md` R1601, R1605). -/
def compareLy (x : PpuIf) : PpuIf :=
  let eq := x.1.ly == x.1.lyc.toNat
  ({ x.1 with coinc := eq }, statRequest x.2 (eq && x.1.selLyc))

/-- The start of a line: dot 456 was reached (`60_exceptions.md` R1601). -/
def nextLine (x : PpuIf) : PpuIf :=
  let p := { x.1 with dot := 0, ly := x.1.ly + 1 }
  compareLy
    (if p.ly = 144 then
      ({ p with mode := .vblank }, statRequest (requestBit x.2 0) p.selVblank)
    else
      let p := if p.ly = 154 then { p with ly := 0, winLine := 0 } else p
      if p.ly < 144 then ({ p with mode := .oamScan }, statRequest x.2 p.selOam) else (p, x.2))

/-- `PpuTick()` (`60_exceptions.md` R1601). -/
def Video.tick (v : Video) (x : PpuIf) : PpuIf :=
  let x := ({ x.1 with dot := x.1.dot + 1 }, x.2)
  let x :=
    if x.1.ly < 144 then
      if x.1.dot = 80 then v.enterTransfer x
      else if x.1.dot = 80 + x.1.mode3Len then v.enterHblank x
      else x
    else x
  if x.1.dot = 456 then nextLine x else x

/-- `n` ticks (`60_exceptions.md` R1601). -/
def Video.ticks (v : Video) : Nat → PpuIf → PpuIf
  | 0, x => x
  | n + 1, x => v.ticks n (v.tick x)

/-- `PpuAdvance(n)` on the picture unit and IF (`60_exceptions.md` R1601, R1607). -/
def Video.run (v : Video) (n : Nat) (x : PpuIf) : PpuIf := if x.1.on then v.ticks n x else x

/-- What the renderer sees of the machine. -/
def State.video (s : State) : Video :=
  { vram := s.vram, oam := s.oam, bgPal := s.bgPal, objPal := s.objPal, cgb := s.cfg.cgbMode, mode3 := s.cfg.mode3 }

/-- `PpuAdvance(n)` (`60_exceptions.md` R1601). -/
def State.ppuAdvance (s : State) (n : Nat) : State :=
  { s with ppu := (s.video.run n (s.ppu, s.ifl)).1, ifl := (s.video.run n (s.ppu, s.ifl)).2 }

/-- A CPU write to LCDC (`60_exceptions.md` R1606). -/
def State.writeLcdc (s : State) (v : Byte) : State :=
  let p := { s.ppu with lcdc := v }
  if s.ppu.on && !p.on then
    { s with ppu := { p with ly := 0, dot := 0, mode := .hblank, fb := blankFrame s.cfg.cgbMode } }
  else if !s.ppu.on && p.on then
    { s with ppu := { p with ly := 0, dot := 0, mode := .oamScan, winLine := 0, coinc := p.lyc == 0 } }
  else { s with ppu := p }

/-- A CPU write to LYC (`60_exceptions.md` R1605). -/
def State.writeLyc (s : State) (v : Byte) : State :=
  if s.ppu.on then
    let eq := s.ppu.ly == v.toNat
    { s with
      ppu := { s.ppu with lyc := v, coinc := eq }
      ifl := statRequest s.ifl (eq && !s.ppu.coinc && s.ppu.selLyc) }
  else { s with ppu := { s.ppu with lyc := v } }

end Sys2Proof.Machine
end

