-- ==== Sys2Proof/Machine/Devices.lean ====
section
/-! DEFINITION. The joypad, the serial port and the CGB palette ports (`60_exceptions.md` R1700-R1721, `10_state.md`
R177-R180). -/

namespace Sys2Proof.Machine

/-! ### Joypad -/

/-- Whether `line[i]` reads 0 because of its direction or its action button (`60_exceptions.md` R1700). -/
def Joypad.low (j : Joypad) (direction action : Bool) : Bool :=
  (!j.sel.getLsbD 0 && direction) || (!j.sel.getLsbD 1 && action)

/-- The four input lines, bit i = `line[i]` (`60_exceptions.md` R1700). -/
def Joypad.lines (j : Joypad) : BitVec 4 :=
  BitVec.ofBool (!j.low j.pressed.down j.pressed.start) ++ BitVec.ofBool (!j.low j.pressed.up j.pressed.select) ++
    BitVec.ofBool (!j.low j.pressed.left j.pressed.b) ++ BitVec.ofBool (!j.low j.pressed.right j.pressed.a)

/-- What P1 reads: `0xC0 | P1[5:4] | lines` (`60_exceptions.md` R1700). -/
def Joypad.read (j : Joypad) : Byte := 0b11#2 ++ j.sel ++ j.lines

/-- The joypad becomes `j'`; a line that falls requests the joypad interrupt (`60_exceptions.md` R1702). -/
def State.setJoypad (s : State) (j' : Joypad) : State :=
  { s with
    joypad := j'
    ifl := if s.joypad.lines &&& ~~~j'.lines = 0 then s.ifl else requestBit s.ifl 4 }

/-! ### Serial -/

/-- What SC reads (`10_state.md` R140, R152). -/
def Serial.readSc (p : Serial) (cgbMode : Bool) : Byte :=
  ofBits p.busy true true true true true (if cgbMode then p.fast else true) p.internal

/-- A CPU write to SC stores bits 7, 1 (CGB mode) and 0 (`10_state.md` R140). -/
def Serial.writeSc (p : Serial) (cgbMode : Bool) (v : Byte) : Serial :=
  { p with busy := v.getLsbD 7, fast := if cgbMode then v.getLsbD 1 else p.fast, internal := v.getLsbD 0 }

/-- `SerialEvent()`: while a transfer is in progress a draw decides whether it ends here, with a drawn byte
(`60_exceptions.md` R1720; log 4, log 13). -/
def State.serialEvent (s : State) : State :=
  if s.serial.busy then
    if Config.freeBit s.draws then
      { s with
        serial := { s.serial with sb := Config.freeByte s.draws, busy := false }
        ifl := requestBit s.ifl 3
        draws := s.draws + 1 }
    else { s with draws := s.draws + 1 }
  else s

/-- The serial port's part of a step of `n` cycles: the serial event, but nothing in a stopped step, in which no cycle
passes and nothing runs (`60_exceptions.md` R1792; log 13). -/
def State.serialAdvance (s : State) (n : Nat) : State := if n = 0 then s else s.serialEvent

/-! ### Palette ports -/

/-- What BCPS and OCPS read: bit 6 is 1 (`10_state.md` R177). -/
def PalIndex.read (i : PalIndex) : Byte := BitVec.ofBool i.auto ++ 1#1 ++ i.index

/-- A CPU write to BCPS or OCPS (`10_state.md` R177). -/
def PalIndex.ofByte (v : Byte) : PalIndex := { auto := v.getLsbD 7, index := v.extractLsb' 0 6 }

/-- The index after a data write: incremented modulo 64 if bit 7 is 1 (`10_state.md` R178). -/
def PalIndex.next (i : PalIndex) : PalIndex := if i.auto then { i with index := i.index + 1 } else i

end Sys2Proof.Machine
end

