-- ==== Sys2Proof/Machine/Io.lean ====
section
/-! DEFINITION. The I/O registers: which address is which register, what a read gives and what a write does
(`10_state.md` R140-R183). The DMA register's copy needs the bus and is in `Ops.lean`. -/

namespace Sys2Proof.Machine

/-- A register of the I/O window (`10_state.md` R140). -/
inductive IoReg where
  | p1 | sb | sc | div | tima | tma | tac | ifl | audio
  | lcdc | stat | scy | scx | ly | lyc | dma | bgp | obp0 | obp1 | wy | wx
  | key1 | vbk | boot | hdma | hdma5 | rp | bcps | bcpd | ocps | ocpd | opri | svbk
  deriving DecidableEq, Repr

/-- `some r` in CGB mode, nothing otherwise (`10_state.md` R141). -/
def cgbOnly (cgbMode : Bool) (r : IoReg) : Option IoReg := if cgbMode then some r else none

/-- The register at `0xFF00 + n`, if there is one in this mode (`10_state.md` R140, R141). -/
def ioRegAt (cgbMode : Bool) (n : Nat) : Option IoReg :=
  if (0x10 ≤ n ∧ n ≤ 0x26) ∨ (0x30 ≤ n ∧ n ≤ 0x3F) then some .audio
  else if 0x51 ≤ n ∧ n ≤ 0x54 then cgbOnly cgbMode .hdma
  else match n with
    | 0x00 => some .p1
    | 0x01 => some .sb
    | 0x02 => some .sc
    | 0x04 => some .div
    | 0x05 => some .tima
    | 0x06 => some .tma
    | 0x07 => some .tac
    | 0x0F => some .ifl
    | 0x40 => some .lcdc
    | 0x41 => some .stat
    | 0x42 => some .scy
    | 0x43 => some .scx
    | 0x44 => some .ly
    | 0x45 => some .lyc
    | 0x46 => some .dma
    | 0x47 => some .bgp
    | 0x48 => some .obp0
    | 0x49 => some .obp1
    | 0x4A => some .wy
    | 0x4B => some .wx
    | 0x4D => cgbOnly cgbMode .key1
    | 0x4F => cgbOnly cgbMode .vbk
    | 0x50 => some .boot
    | 0x55 => cgbOnly cgbMode .hdma5
    | 0x56 => cgbOnly cgbMode .rp
    | 0x68 => cgbOnly cgbMode .bcps
    | 0x69 => cgbOnly cgbMode .bcpd
    | 0x6A => cgbOnly cgbMode .ocps
    | 0x6B => cgbOnly cgbMode .ocpd
    | 0x6C => cgbOnly cgbMode .opri
    | 0x70 => cgbOnly cgbMode .svbk
    | _ => none

/-- What reading an address gives. -/
inductive ReadResult where
  /-- This byte. -/
  | byte (b : Byte)
  /-- A byte nothing constrains: the next draw (log 4). -/
  | draw
  /-- No meaning: a feature outside the spec. -/
  | refuse (u : Unsupported)
  deriving DecidableEq, Repr

/-- What STAT reads: `0x80 | STAT[6:3] | coinc << 2 | modebits`, the mode bits 0 while the display is off
(`10_state.md` R140, R161). -/
def Ppu.readStat (p : Ppu) : Byte :=
  1#1 ++ p.statSel ++ BitVec.ofBool p.coinc ++ (if p.on then p.mode.code else 0#2)

/-- The byte of BGPAL that BCPD reaches (`10_state.md` R178). -/
def State.bgPalByte (s : State) (i : Nat) : Byte := Memory.get s.bgPal (Config.initMem .bgPal) i

/-- The byte of OBJPAL that OCPD reaches (`10_state.md` R180). -/
def State.objPalByte (s : State) (i : Nat) : Byte := Memory.get s.objPal (Config.initMem .objPal) i

/-- What a read of an I/O register gives (`10_state.md` R140). -/
def State.readIo (s : State) (r : IoReg) : ReadResult :=
  match r with
  | .p1 => .byte s.joypad.read
  | .sb => .byte s.serial.sb
  | .sc => .byte (s.serial.readSc s.cfg.cgbMode)
  | .div => .byte (hi8 s.timer.counter)
  | .tima => .byte s.timer.tima
  | .tma => .byte s.timer.tma
  | .tac => .byte (0b11111#5 ++ s.timer.tac)
  | .ifl => .byte (0b111#3 ++ s.ifl)
  | .audio => .draw
  | .lcdc => .byte s.ppu.lcdc
  | .stat => .byte s.ppu.readStat
  | .scy => .byte s.ppu.scy
  | .scx => .byte s.ppu.scx
  | .ly => .byte (BitVec.ofNat 8 s.ppu.ly)
  | .lyc => .byte s.ppu.lyc
  | .dma => .byte s.dma
  | .bgp => .byte s.ppu.bgp
  | .obp0 => .byte s.ppu.obp0
  | .obp1 => .byte s.ppu.obp1
  | .wy => .byte s.ppu.wy
  | .wx => .byte s.ppu.wx
  | .key1 => .byte 0x7E
  | .vbk => .byte (0b1111111#7 ++ s.cgb.vbk)
  | .boot => .byte 0xFF
  | .hdma => .byte 0xFF
  | .hdma5 => .byte 0xFF
  | .rp => .byte (s.cgb.rpHigh ++ 0b11111#5 ++ s.cgb.rpLow)
  | .bcps => .byte s.cgb.bcps.read
  | .bcpd => .byte (s.bgPalByte s.cgb.bcps.index.toNat)
  | .ocps => .byte s.cgb.ocps.read
  | .ocpd => .byte (s.objPalByte s.cgb.ocps.index.toNat)
  | .opri => .byte (0b1111111#7 ++ s.cgb.opri)
  | .svbk => .byte (0b11111#5 ++ s.cgb.svbk)

/-- What a CPU write of `v` to an I/O register does, but for the DMA register's copy (`10_state.md` R140). -/
def State.writeIo (s : State) (r : IoReg) (v : Byte) : Except Unsupported State :=
  match r with
  | .p1 => .ok (s.setJoypad { s.joypad with sel := v.extractLsb' 4 2 })
  | .sb => .ok { s with serial := { s.serial with sb := v } }
  | .sc => .ok { s with serial := s.serial.writeSc s.cfg.cgbMode v }
  | .div => .ok s.divReset
  | .tima => .ok { s with timer := { s.timer with tima := v } }
  | .tma => .ok { s with timer := { s.timer with tma := v } }
  | .tac => .ok (s.writeTac v)
  | .ifl => .ok { s with ifl := v.extractLsb' 0 5 }
  | .audio => .ok s
  | .lcdc => .ok (s.writeLcdc v)
  | .stat => .ok { s with ppu := { s.ppu with statSel := v.extractLsb' 3 4 } }
  | .scy => .ok { s with ppu := { s.ppu with scy := v } }
  | .scx => .ok { s with ppu := { s.ppu with scx := v } }
  | .ly => .ok s
  | .lyc => .ok (s.writeLyc v)
  | .dma => .ok { s with dma := v }
  | .bgp => .ok { s with ppu := { s.ppu with bgp := v } }
  | .obp0 => .ok { s with ppu := { s.ppu with obp0 := v } }
  | .obp1 => .ok { s with ppu := { s.ppu with obp1 := v } }
  | .wy => .ok { s with ppu := { s.ppu with wy := v } }
  | .wx => .ok { s with ppu := { s.ppu with wx := v } }
  | .key1 => if v.getLsbD 0 then .error .speedSwitch else .ok s
  | .vbk => .ok { s with cgb := { s.cgb with vbk := v.extractLsb' 0 1 } }
  | .boot => .ok (if v.getLsbD 0 then { s with bootMapped := false } else s)
  | .hdma => .ok s
  | .hdma5 => .error .vramDma
  | .rp => .ok { s with cgb := { s.cgb with rpHigh := v.extractLsb' 6 2, rpLow := v.extractLsb' 0 1 } }
  | .bcps => .ok { s with cgb := { s.cgb with bcps := PalIndex.ofByte v } }
  | .bcpd =>
    .ok { s with
      bgPal := Memory.write s.bgPal s.cgb.bcps.index.toNat v
      cgb := { s.cgb with bcps := s.cgb.bcps.next } }
  | .ocps => .ok { s with cgb := { s.cgb with ocps := PalIndex.ofByte v } }
  | .ocpd =>
    .ok { s with
      objPal := Memory.write s.objPal s.cgb.ocps.index.toNat v
      cgb := { s.cgb with ocps := s.cgb.ocps.next } }
  | .opri => .ok { s with cgb := { s.cgb with opri := v.extractLsb' 0 1 } }
  | .svbk => .ok { s with cgb := { s.cgb with svbk := v.extractLsb' 0 3 } }

end Sys2Proof.Machine
end

