-- ==== Sys2Proof/Machine/Ops.lean ====
section
/-! DEFINITION. The named operations every instruction is written in: the bus (`20_memory.md` R311), OAM DMA, the stack,
fetching, taking an interrupt and returning from one, and how an instruction's effect becomes an outcome. An operation
that may reach a feature outside the spec answers in `Except Unsupported`. -/

namespace Sys2Proof.Machine

/-- The reads and writes of an instruction, which a refusal cuts short. -/
abbrev Eff := Except Unsupported

/-! ### Bus routing -/

/-- What an address reaches (`20_memory.md` R310, R311). -/
inductive Target where
  /-- Byte `i` of the boot ROM; a write is a controller command. -/
  | boot (i : Nat)
  /-- Byte `i` of the ROM image; a write is a controller command. -/
  | rom (i : Nat)
  /-- Byte `i` of VRAM, bank k at 0x2000 k. -/
  | vram (i : Nat)
  /-- The external RAM window. -/
  | ext (t : ExtTarget)
  /-- Byte `i` of WRAM, bank k at 0x1000 k. -/
  | wram (i : Nat)
  | oam (i : Nat)
  /-- The unusable gap. -/
  | gap
  | io (r : IoReg)
  /-- An I/O address with no register. -/
  | unmapped
  | hram (i : Nat)
  | ie
  deriving DecidableEq, Repr

/-- `BootRange(HW)` (`20_memory.md` R320). -/
def bootRange (hw : Hw) (n : Nat) : Bool :=
  decide (n ≤ 0xFF) || (hw == .cgb && decide (0x200 ≤ n) && decide (n ≤ 0x8FF))

/-- The VRAM bank the CPU sees (`20_memory.md` R313). -/
def State.vramBank (s : State) : Nat := if s.cfg.cgbMode then s.cgb.vbk.toNat else 0

/-- The WRAM bank at 0xD000-0xDFFF (`10_state.md` R131, R182). -/
def State.wramBank (s : State) : Nat := if s.cfg.cgbMode then max 1 s.cgb.svbk.toNat else 1

/-- The WRAM offset of an address in 0xC000-0xDFFF (`20_memory.md` R311, R315). -/
def State.wramOffset (s : State) (n : Nat) : Nat := if n < 0xD000 then n - 0xC000 else s.wramBank * 0x1000 + (n - 0xD000)

/-- The bus routing function (`20_memory.md` R311). -/
def State.target (s : State) (a : Word) : Target :=
  let n := a.toNat
  if n ≤ 0x7FFF then
    if s.bootMapped && bootRange s.cfg.hw n then .boot n else .rom (s.cart.romIndex n)
  else if n ≤ 0x9FFF then .vram (s.vramBank * 0x2000 + (n - 0x8000))
  else if n ≤ 0xBFFF then .ext (s.cart.extTarget (n - 0xA000))
  else if n ≤ 0xDFFF then .wram (s.wramOffset n)
  else if n ≤ 0xFDFF then .wram (s.wramOffset (n - 0x2000))     -- echo RAM, R316
  else if n ≤ 0xFE9F then .oam (n - 0xFE00)
  else if n ≤ 0xFEFF then .gap
  else if n ≤ 0xFF7F then
    match ioRegAt s.cfg.cgbMode (n - 0xFF00) with
    | some r => .io r
    | none => .unmapped
  else if n ≤ 0xFFFE then .hram (n - 0xFF80)
  else .ie

/-! ### Reading -/

/-- VRAM is busy: the display is on in mode 3 (`20_memory.md` R322). -/
def State.vramBusy (s : State) : Bool := s.ppu.on && s.ppu.mode == .transfer

/-- OAM is busy: the display is on in mode 2 or 3 (`20_memory.md` R322). -/
def State.oamBusy (s : State) : Bool := s.ppu.on && (s.ppu.mode == .oamScan || s.ppu.mode == .transfer)

/-- A read of a video memory under `VIDEO_LOCK` (`20_memory.md` R322). -/
def lockedRead (lock : VideoLock) (busy : Bool) (b : Byte) : ReadResult :=
  if busy then
    match lock with
    | .free => .byte b
    | .locked => .byte 0xFF
    | .unknown => .draw
  else .byte b

/-- A byte of the boot ROM. -/
def State.bootByte (s : State) (i : Nat) : Byte := Memory.get (s.cfg.bootRom.getD []) (fun _ => 0) i

/-- What reading the external RAM window gives (`20_memory.md` R314, R433, R443). -/
def Cart.readExt (c : Cart) : ExtTarget → ReadResult
  | .ram i => .byte (c.ramByte i)
  | .nibble i => .byte (c.nibbleByte i)
  | .closed => .byte 0xFF
  | .clock => .refuse .mbc3Clock

/-- What reading a bus target gives (`20_memory.md` R311). -/
def State.readTarget (s : State) : Target → ReadResult
  | .boot i => .byte (s.bootByte i)
  | .rom i => .byte (s.cart.romByte i)
  | .vram i => lockedRead s.cfg.videoLock s.vramBusy (s.video.vramByte i)
  | .ext t => s.cart.readExt t
  | .wram i => .byte (Memory.get s.wram (Config.initMem .wram) i)
  | .oam i => lockedRead s.cfg.videoLock s.oamBusy (s.video.oamByte i)
  | .gap => .byte s.cfg.gapRead
  | .io r => s.readIo r
  | .unmapped => .byte 0xFF
  | .hram i => .byte (Memory.get s.hram (Config.initMem .hram) i)
  | .ie => .byte s.ie

/-- What `MemRead(a, 1)` gives in a state (`20_memory.md` R311). -/
def State.peek (s : State) (a : Word) : ReadResult := s.readTarget (s.target a)

/-- The byte a read result stands for, and the state after it: a draw takes the next free byte (log 4). -/
def State.resolve (s : State) : ReadResult → Eff (Byte × State)
  | .byte b => .ok (b, s)
  | .draw => .ok (Config.freeByte s.draws, { s with draws := s.draws + 1 })
  | .refuse u => .error u

/-- `MemRead(a, 1)` (`00_scope.md` R33). -/
def State.read (s : State) (a : Word) : Eff (Byte × State) := s.resolve (s.peek a)

/-! ### Writing -/

/-- A write to the external RAM window (`20_memory.md` R314, R433, R443). -/
def Cart.writeExt (c : Cart) (v : Byte) : ExtTarget → Eff Cart
  | .ram i => .ok { c with ram := Memory.write c.ram i v }
  | .nibble i => .ok { c with ram := Memory.write c.ram i (v &&& 0x0F) }
  | .closed => .ok c
  | .clock => .error .mbc3Clock

/-- A write of a video memory under `VIDEO_LOCK`: `t` is the state with the byte stored (`20_memory.md` R322). -/
def State.lockedWrite (s : State) (busy : Bool) (t : State) : State :=
  if busy then
    match s.cfg.videoLock with
    | .free => t
    | .locked => s
    | .unknown =>
      if Config.freeBit s.draws then { t with draws := s.draws + 1 } else { s with draws := s.draws + 1 }
  else t

/-- Store a byte of OAM. -/
def State.setOam (s : State) (i : Nat) (v : Byte) : State := { s with oam := Memory.write s.oam i v }

/-- The OAM DMA copy from page `v`, from byte `i` on with `n` bytes to go (`20_memory.md` R340; log 14). -/
def State.dmaCopy (v : Byte) : Nat → Nat → State → Eff State
  | 0, _, s => .ok s
  | n + 1, i, s => do
    let (b, s) ← s.read (word v (BitVec.ofNat 8 i))
    State.dmaCopy v n (i + 1) (s.setOam i b)

/-- A CPU write of `v` to DMA (`20_memory.md` R340). -/
def State.writeDma (s : State) (v : Byte) : Eff State :=
  if v.toNat ≤ 0xDF then State.dmaCopy v 160 0 { s with dma := v } else .error .oamDmaSource

/-- What writing `v` to a bus target does; `a` is the address, which a controller command looks at
(`20_memory.md` R311). -/
def State.writeTarget (s : State) (a : Word) (v : Byte) : Target → Eff State
  | .boot _ => .ok { s with cart := { s.cart with ctrl := s.cart.ctrl.command a.toNat v } }
  | .rom _ => .ok { s with cart := { s.cart with ctrl := s.cart.ctrl.command a.toNat v } }
  | .vram i => .ok (s.lockedWrite s.vramBusy { s with vram := Memory.write s.vram i v })
  | .ext t =>
    match s.cart.writeExt v t with
    | .ok c => .ok { s with cart := c }
    | .error u => .error u
  | .wram i => .ok { s with wram := Memory.write s.wram i v }
  | .oam i => .ok (s.lockedWrite s.oamBusy (s.setOam i v))
  | .gap => .ok s
  | .io .dma => s.writeDma v
  | .io r => s.writeIo r v
  | .unmapped => .ok s
  | .hram i => .ok { s with hram := Memory.write s.hram i v }
  | .ie => .ok { s with ie := v }

/-- `MemWrite(a, 1, v)` (`00_scope.md` R33). -/
def State.write (s : State) (a : Word) (v : Byte) : Eff State := s.writeTarget a v (s.target a)

/-! ### The stack -/

/-- `push16(v)`: high byte at SP-1, low byte at SP-2 (`00_scope.md` R34). -/
def State.push16 (s : State) (v : Word) : Eff State := do
  let s := { s with sp := s.sp - 1 }
  let s ← s.write s.sp (hi8 v)
  let s := { s with sp := s.sp - 1 }
  s.write s.sp (lo8 v)

/-- `pop16()`: low byte at SP, high byte at SP+1 (`00_scope.md` R34). -/
def State.pop16 (s : State) : Eff (Word × State) := do
  let (lo, s) ← s.read s.sp
  let s := { s with sp := s.sp + 1 }
  let (hi, s) ← s.read s.sp
  .ok (word hi lo, { s with sp := s.sp + 1 })

/-! ### Fetching -/

/-- The address the byte after the opcode is fetched from: under the HALT bug the opcode's own (`47_system.md` R1300,
R1312). -/
def State.operandAddr (s : State) : Word := if s.haltBug then s.pc else s.pc + 1

/-- pc after the bytes of an `n`-byte instruction are fetched, with the HALT bug spent (`47_system.md` R1300). -/
def State.advance (s : State) (n : Nat) : State :=
  { s with pc := s.operandAddr + BitVec.ofNat 16 (n - 1), haltBug := false }

/-- Read `n` bytes from address `a` on. -/
def State.readBytes : Nat → Word → State → Eff (List Byte × State)
  | 0, _, s => .ok ([], s)
  | n + 1, a, s => do
    let (b, s) ← s.read a
    let (bs, s) ← State.readBytes n (a + 1) s
    .ok (b :: bs, s)

/-- Fetch the bytes of the next instruction; pc is advanced by the instruction (`47_system.md` R1300, R1302; log 10). -/
def State.fetchBytes (s : State) : Eff (List Byte × State) := do
  let a := s.operandAddr
  let (op, s) ← s.read s.pc
  let (bs, s) ← State.readBytes (lengthOf op - 1) a s
  .ok (op :: bs, s)

/-- The instruction a list of fetched bytes is. -/
def decodeFetched (bs : List Byte) : Instr := decodeBytes (bs.getD 0 0) (bs.getD 1 0) (bs.getD 2 0)

/-- Fetch and decode the next instruction (`30_encoding.md` R550). -/
def State.fetch (s : State) : Eff (Instr × State) := do
  let (bs, s) ← s.fetchBytes
  .ok (decodeFetched bs, s)

/-! ### Outcomes -/

/-- The cycle count the step returns: `cycles <- n` (`00_scope.md` R34). -/
def State.cost (s : State) (n : Nat) : State := { s with cycles := n }

/-- The outcome of an instruction from state `s`: its next state, or, where it reached a feature outside the spec, `s`
with the `refused` mark and nothing else committed (`60_exceptions.md` R1430, R1435; log 7). -/
def State.conclude (s : State) : Eff State → Host.Outcome State Fault Refusal
  | .ok t => .next t
  | .error u => .next { s with refused := some u }

/-- `raise IllegalOpcode(op, a)`, a the address of the opcode byte; nothing else is committed (`47_system.md` R1316). -/
def State.raiseIllegal (s : State) (op : Byte) : State := { s with fatal := some (.illegalOpcode op s.pc) }

/-! ### Interrupts -/

/-- `pendingAndEnabled() = IE & IF & 0x1F` (`60_exceptions.md` R1404). -/
def State.pending (s : State) : BitVec 5 := s.ie.extractLsb' 0 5 &&& s.ifl

/-- The index of the lowest set bit (`60_exceptions.md` R1401). -/
def lowestBit (p : BitVec 5) : Nat :=
  if p.getLsbD 0 then 0
  else if p.getLsbD 1 then 1
  else if p.getLsbD 2 then 2
  else if p.getLsbD 3 then 3
  else 4

/-- The address of the next instruction that had not started: under the HALT bug that of the HALT
(`60_exceptions.md` R1411, R1412). -/
def State.returnAddr (s : State) : Word := if s.haltBug then s.pc - 1 else s.pc

/-- `Dispatch()`: take the pending enabled interrupt of lowest index (`60_exceptions.md` R1411). -/
def State.dispatch (s : State) : Eff State := do
  let k := lowestBit s.pending
  let ret := s.returnAddr
  let s := { s with ifl := s.ifl &&& ~~~(1#5 <<< k), ime := false, eiDelay := 0, haltBug := false }
  let s ← s.push16 ret
  .ok ({ s with pc := BitVec.ofNat 16 (0x40 + 8 * k) }.cost 20)

/-- The return from a handler that enables interrupts: pc popped, IME 1 at once (`45_control.md` R1119,
`60_exceptions.md` R1413). -/
def State.returnFromInterrupt (s : State) : Eff State := do
  let (v, s) ← s.pop16
  .ok { s with pc := v, ime := true }

/-! ### Placing bytes -/

/-- The state with the byte behind address `a` replaced, ROM included, with no side effect; an address with no byte of
memory behind it is left as it is. It is no operation of the machine: it stands for the host's load of a program
(log 20). -/
def State.poke (s : State) (a : Word) (v : Byte) : State :=
  match s.target a with
  | .rom i => { s with cart := { s.cart with rom := Memory.write s.cart.rom i v } }
  | .boot i => { s with cfg := { s.cfg with bootRom := some (Memory.write (s.cfg.bootRom.getD []) i v) } }
  | .vram i => { s with vram := Memory.write s.vram i v }
  | .ext (.ram i) => { s with cart := { s.cart with ram := Memory.write s.cart.ram i v } }
  | .wram i => { s with wram := Memory.write s.wram i v }
  | .oam i => s.setOam i v
  | .hram i => { s with hram := Memory.write s.hram i v }
  | _ => s

/-- Place bytes from address `a` on (log 20). -/
def State.pokeBytes (s : State) (a : Word) : List Byte → State
  | [] => s
  | b :: bs => State.pokeBytes (s.poke a b) (a + 1) bs

/-- The state in which the next step fetches these bytes: running, no mark, no interrupt to take (log 20). -/
def State.placeNext (s : State) (bytes : List Byte) : State :=
  { s with
    fatal := none
    refused := none
    stopped := false
    halted := false
    haltBug := false
    ime := s.ime && s.pending == 0 }.pokeBytes s.pc bytes

end Sys2Proof.Machine
end

