-- ==== Sys2Proof/Machine/Operands.lean ====
section
/-! DEFINITION. The operand forms: 8-bit registers, the pairs and their views, the memory operand, the conditions
(`00_scope.md` R32, R35), and the shapes instructions share. -/

namespace Sys2Proof.Machine

/-! ### Registers -/

/-- `ReadR8(i)` for a register (`00_scope.md` R35). -/
def Regs.get (x : Regs) : Reg8 → Byte
  | .b => x.b | .c => x.c | .d => x.d | .e => x.e | .h => x.h | .l => x.l | .a => x.a

/-- `WriteR8(i, v)` for a register (`00_scope.md` R35). -/
def Regs.set (x : Regs) (r : Reg8) (v : Byte) : Regs :=
  match r with
  | .b => { x with b := v }
  | .c => { x with c := v }
  | .d => { x with d := v }
  | .e => { x with e := v }
  | .h => { x with h := v }
  | .l => { x with l := v }
  | .a => { x with a := v }

/-- `x[AF]` (`10_state.md` R101). -/
def Regs.af (x : Regs) : Word := word x.a x.f.toByte

/-- `x[BC]` (`10_state.md` R101). -/
def Regs.bc (x : Regs) : Word := word x.b x.c

/-- `x[DE]` (`10_state.md` R101). -/
def Regs.de (x : Regs) : Word := word x.d x.e

/-- `x[HL]` (`10_state.md` R101). -/
def Regs.hl (x : Regs) : Word := word x.h x.l

/-- `x[r]`. -/
def State.reg (s : State) (r : Reg8) : Byte := s.regs.get r

/-- `x[r] <- v`. -/
def State.setReg (s : State) (r : Reg8) (v : Byte) : State := { s with regs := s.regs.set r v }

/-- F written whole: `setF` (`40_alu8.md` R603). -/
def State.setFlags (s : State) (f : Flags) : State := { s with regs := { s.regs with f := f } }

/-- `x[HL] <- v`. -/
def State.setHl (s : State) (v : Word) : State := { s with regs := { s.regs with h := hi8 v, l := lo8 v } }

/-- `x[R16(p)]` (`00_scope.md` R35). -/
def State.pair (s : State) : Reg16 → Word
  | .bc => s.regs.bc
  | .de => s.regs.de
  | .hl => s.regs.hl
  | .sp => s.sp

/-- `x[R16(p)] <- v` (`00_scope.md` R35). -/
def State.setPair (s : State) (p : Reg16) (v : Word) : State :=
  match p with
  | .bc => { s with regs := { s.regs with b := hi8 v, c := lo8 v } }
  | .de => { s with regs := { s.regs with d := hi8 v, e := lo8 v } }
  | .hl => s.setHl v
  | .sp => { s with sp := v }

/-- `x[R16STK(q)]` (`00_scope.md` R35). -/
def State.stkPair (s : State) : Reg16Stk → Word
  | .bc => s.regs.bc
  | .de => s.regs.de
  | .hl => s.regs.hl
  | .af => s.regs.af

/-- `x[R16STK(q)] <- v`; AF keeps only bits 7-4 of F (`46_stack.md` R1211). -/
def State.setStkPair (s : State) (q : Reg16Stk) (v : Word) : State :=
  match q with
  | .bc => s.setPair .bc v
  | .de => s.setPair .de v
  | .hl => s.setPair .hl v
  | .af => { s with regs := { s.regs with a := hi8 v, f := Flags.ofByte (lo8 v) } }

/-- `COND(c)` (`00_scope.md` R35). -/
def condHolds (cc : Cond) (f : Flags) : Bool :=
  match cc with
  | .nz => !f.z
  | .z => f.z
  | .nc => !f.c
  | .c => f.c

/-! ### The shapes instructions share -/

/-- The ALU operation on A and an operand (`40_alu8.md` R604). -/
def State.alu (s : State) (op : AluOp) (b : Byte) : State :=
  { s with regs := { s.regs with
    a := (op.apply s.regs.a b s.regs.f.c).1
    f := (op.apply s.regs.a b s.regs.f.c).2 } }

/-- An ALU instruction with a register operand. -/
def State.aluReg (s : State) (op : AluOp) (r : Reg8) : Eff State :=
  .ok (((s.advance 1).alu op (s.reg r)).cost 4)

/-- An ALU instruction with the memory operand. -/
def State.aluHl (s : State) (op : AluOp) : Eff State := do
  let s := s.advance 1
  let (b, s) ← s.read s.regs.hl
  .ok ((s.alu op b).cost 8)

/-- An ALU instruction with an immediate. -/
def State.aluImm (s : State) (op : AluOp) (n : Byte) : Eff State := .ok (((s.advance 2).alu op n).cost 8)

/-- Read the byte at HL, write `f` of it back, then set the flags `g` of it: the read first (`40_alu8.md` R641,
`42_rotate_shift.md` R821, `43_bit.md` R913). -/
def State.modifyHl (s : State) (len cycles : Nat) (f : Byte → Flags → Byte) (g : Byte → Flags → Flags) : Eff State := do
  let s := s.advance len
  let (v, s) ← s.read s.regs.hl
  let s ← s.write s.regs.hl (f v s.regs.f)
  .ok ((s.setFlags (g v s.regs.f)).cost cycles)

/-- A shift of an 8-bit register (`42_rotate_shift.md` R820). -/
def State.shiftReg (s : State) (o : ShiftOp) (r : Reg8) : Eff State :=
  let x := o.apply (s.reg r) s.regs.f.c
  .ok ((((s.advance 2).setReg r x.1).setFlags (shiftFlags x.1 x.2)).cost 8)

/-- A shift of the byte at HL (`42_rotate_shift.md` R821). -/
def State.shiftHl (s : State) (o : ShiftOp) : Eff State :=
  s.modifyHl 2 16 (fun v f => (o.apply v f.c).1) (fun v f => shiftFlags (o.apply v f.c).1 (o.apply v f.c).2)

/-- An accumulator rotate (`42_rotate_shift.md` R810). -/
def State.rotateA (s : State) (o : ShiftOp) : Eff State :=
  let x := o.apply s.regs.a s.regs.f.c
  .ok ((((s.advance 1).setReg .a x.1).setFlags (rotateFlags x.2)).cost 4)

/-- Load A from an address: `len` bytes, `cycles` cycles. -/
def State.loadA (s : State) (len cycles : Nat) (a : Word) : Eff State := do
  let (v, s) ← (s.advance len).read a
  .ok ((s.setReg .a v).cost cycles)

/-- Store a byte to an address. -/
def State.storeByte (s : State) (len cycles : Nat) (a : Word) (v : Byte) : Eff State := do
  let s ← (s.advance len).write a v
  .ok (s.cost cycles)

/-- Jump to `target` if `taken` (`45_control.md` R1111). -/
def State.jumpIf (s : State) (len : Nat) (taken : Bool) (target : Word) (yes no : Nat) : Eff State :=
  let s := s.advance len
  .ok (if taken then { s with pc := target }.cost yes else s.cost no)

/-- Call `target` if `taken`: the return address is the address of the next instruction (`45_control.md` R1115). -/
def State.callIf (s : State) (len : Nat) (taken : Bool) (target : Word) (yes no : Nat) : Eff State :=
  let s := s.advance len
  if taken then do
    let s ← s.push16 s.pc
    .ok ({ s with pc := target }.cost yes)
  else .ok (s.cost no)

/-- Return if `taken` (`45_control.md` R1117). -/
def State.returnIf (s : State) (taken : Bool) (yes no : Nat) : Eff State :=
  let s := s.advance 1
  if taken then do
    let (v, s) ← s.pop16
    .ok ({ s with pc := v }.cost yes)
  else .ok (s.cost no)

/-- An illegal opcode (`47_system.md` R1316). -/
def State.illegal (s : State) (op : Byte) : Host.Outcome State Fault Refusal := .next (s.raiseIllegal op)

end Sys2Proof.Machine
end

