-- ==== Sys2Proof/Machine/Cpu.lean ====
section
/-! DEFINITION. The CPU step around the instructions and the scheduler around the CPU step (`47_system.md` R1300,
`60_exceptions.md` R1760), but for `exec` itself, which `Step.lean` calls. -/

namespace Sys2Proof.Machine

/-- The value of a bank latch that its controller's commands never give it, if it holds one: 0 where they turn 0 into 1,
8 and above in a rumble MBC5's three-bit RAMB (`20_memory.md` R421, R431, R441, R450, R460). Every other value a latch's
width allows is one some command gives. -/
def Controller.badLatch : Controller → Option Nat
  | .romOnly => none
  | .mbc1 _ bank1 _ _ => if bank1 = 0 then some 0 else none
  | .mbc2 _ romb => if romb = 0 then some 0 else none
  | .mbc3 _ romb _ => if romb = 0 then some 0 else none
  | .mbc5 rumble _ _ ramb => if rumble ∧ 8 ≤ ramb.toNat then some ramb.toNat else none

/-- A state the rules cannot produce, as the record an invariant violation leaves: a counter outside its range, an image
no load accepts, an impossible bank index (`60_exceptions.md` R1432; log 8). -/
def State.impossible (s : State) : Option Fatal :=
  if s.ppu.dot > 455 then some (.invariantViolation .dot s.ppu.dot)
  else if s.ppu.ly > 153 then some (.invariantViolation .ly s.ppu.ly)
  else if s.ppu.winLine > 143 then some (.invariantViolation .winLine s.ppu.winLine)
  else if s.ppu.mode3Len < 172 ∨ s.ppu.mode3Len > 289 then some (.invariantViolation .mode3Len s.ppu.mode3Len)
  else if s.cart.romLen < 0x150 then some (.invariantViolation .romImage s.cart.romLen)
  else s.cart.ctrl.badLatch.map (.invariantViolation .bankLatch)

/-- The scheduler's part of a step after the CPU's: the total, the timer, the PPU, the serial event
(`60_exceptions.md` R1760). -/
def State.elapse (s : State) : State :=
  (({ s with totalCycles := s.totalCycles + s.cycles }.timerAdvance s.cycles).ppuAdvance s.cycles).serialAdvance s.cycles

/-- The countdown of EI after an instruction (`47_system.md` R1300, R1314). -/
def State.countdown (s : State) : State :=
  if s.eiDelay = 0 then s
  else if s.eiDelay = 1 then { s with eiDelay := 0, ime := true }
  else { s with eiDelay := 1 }

/-- A step of the CPU that executes no instruction: a stopped step, a halted step (`47_system.md` R1300, R1311, R1312). -/
def State.stoppedStep (s : State) : State := s.cost 0

/-- A halted step, which ends the halt if an enabled interrupt is pending (`47_system.md` R1312). -/
def State.haltedStep (s : State) : State := { s with halted := s.pending == 0 }.cost 4

/-- A step commits only the mark its CPU part raised (`47_system.md` R1316, `60_exceptions.md` R1430, R1435). -/
def State.markOnly (s t : State) : State := { s with fatal := t.fatal, refused := t.refused }

/-- The whole step from state `s`, given the outcome of its CPU part: if that raised a mark, only the mark is committed,
and otherwise the devices advance. -/
def State.afterCpu (s : State) : Host.Outcome State Fault Refusal → Host.Outcome State Fault Refusal
  | .next t => .next (if t.fatal.isSome || t.refused.isSome then s.markOnly t else t.elapse)
  | .fault f => .fault f
  | .refused r => .refused r

/-- The countdown applied to an instruction's next state, unless it raised a mark (`47_system.md` R1300). -/
def afterInstr : Host.Outcome State Fault Refusal → Host.Outcome State Fault Refusal
  | .next t => .next (if t.fatal.isSome || t.refused.isSome then t else t.countdown)
  | .fault f => .fault f
  | .refused r => .refused r

/-- Why no step is taken, if none is (`47_system.md` R1300, `60_exceptions.md` R1430), or the mark an impossible state
gets (R1432). -/
def State.blocked (s : State) : Option (Host.Outcome State Fault Refusal) :=
  match s.fatal, s.refused, s.impossible with
  | some r, _, _ => some (.fault (.executionFatal r))
  | none, some u, _ => some (.refused (.outOfScope u))
  | none, none, some r => some (.next { s with fatal := some r })
  | none, none, none => none

/-- The CPU's part of a step that executes no instruction, if this is one: stopped, halted, or an interrupt dispatch, in
this order (`47_system.md` R1300). -/
def State.idle (s : State) : Option (Host.Outcome State Fault Refusal) :=
  if s.stopped then some (.next s.stoppedStep)
  else if s.halted then some (.next s.haltedStep)
  else if s.ime && s.pending != 0 then some (s.conclude s.dispatch)
  else none

/-- The CPU's part of a step that executes an instruction, given what executing one does: fetch, decode, execute, count
down (`47_system.md` R1300, `ExecuteOne`). -/
def State.executeOne (s : State) (run : Instr → State → Host.Outcome State Fault Refusal) :
    Host.Outcome State Fault Refusal :=
  match s.fetch with
  | .ok (i, t) => afterInstr (run i t)
  | .error u => .next { s with refused := some u }

/-- `Step()` (`60_exceptions.md` R1760), given what executing an instruction does. -/
def State.stepWith (s : State) (run : Instr → State → Host.Outcome State Fault Refusal) :
    Host.Outcome State Fault Refusal :=
  match s.blocked with
  | some o => o
  | none =>
    s.afterCpu
      (match s.idle with
        | some o => o
        | none => s.executeOne run)

end Sys2Proof.Machine
end

