-- ==== Sys2Proof/Machine/Alu16.lean ====
section
/-! DEFINITION. 16-bit arithmetic (`41_alu16.md`): one meaning per row. -/

namespace Sys2Proof.Machine

/-- `ADD HL,rr` (R710). -/
def execAddHlRr (p : Reg16) (s : State) : Host.Outcome State Fault Refusal :=
  s.conclude <|
    let x := add16 s.regs.hl (s.pair p) s.regs.f
    .ok ((((s.advance 1).setHl x.1).setFlags x.2).cost 8)

/-- `INC rr` (R711). -/
def execIncRr (p : Reg16) (s : State) : Host.Outcome State Fault Refusal :=
  s.conclude (.ok (((s.advance 1).setPair p (s.pair p + 1)).cost 8))

/-- `DEC rr` (R712). -/
def execDecRr (p : Reg16) (s : State) : Host.Outcome State Fault Refusal :=
  s.conclude (.ok (((s.advance 1).setPair p (s.pair p - 1)).cost 8))

/-- `ADD SP,e8` (R713). -/
def execAddSpE (e : Byte) (s : State) : Host.Outcome State Fault Refusal :=
  s.conclude <|
    let x := spAdd s.sp e
    .ok (({ s.advance 2 with sp := x.1 }.setFlags x.2).cost 16)

/-- `LD HL,SP+e8` (R714). -/
def execLdHlSpE (e : Byte) (s : State) : Host.Outcome State Fault Refusal :=
  s.conclude <|
    let x := spAdd s.sp e
    .ok ((((s.advance 2).setHl x.1).setFlags x.2).cost 12)

end Sys2Proof.Machine
end

