-- ==== Sys2Proof/Machine/Alu8.lean ====
section
/-! DEFINITION. 8-bit arithmetic and logic (`40_alu8.md`): one meaning per row. -/

namespace Sys2Proof.Machine

/-- `ADD A,r` (R610). -/
def execAddAR (r : Reg8) (s : State) : Host.Outcome State Fault Refusal := s.conclude (s.aluReg .add r)

/-- `ADD A,(HL)` (R611). -/
def execAddAHl (s : State) : Host.Outcome State Fault Refusal := s.conclude (s.aluHl .add)

/-- `ADD A,n8` (R612). -/
def execAddAN (n : Byte) (s : State) : Host.Outcome State Fault Refusal := s.conclude (s.aluImm .add n)

/-- `ADC A,r` (R613). -/
def execAdcAR (r : Reg8) (s : State) : Host.Outcome State Fault Refusal := s.conclude (s.aluReg .adc r)

/-- `ADC A,(HL)` (R614). -/
def execAdcAHl (s : State) : Host.Outcome State Fault Refusal := s.conclude (s.aluHl .adc)

/-- `ADC A,n8` (R615). -/
def execAdcAN (n : Byte) (s : State) : Host.Outcome State Fault Refusal := s.conclude (s.aluImm .adc n)

/-- `SUB r` (R616). -/
def execSubR (r : Reg8) (s : State) : Host.Outcome State Fault Refusal := s.conclude (s.aluReg .sub r)

/-- `SUB (HL)` (R617). -/
def execSubHl (s : State) : Host.Outcome State Fault Refusal := s.conclude (s.aluHl .sub)

/-- `SUB n8` (R618). -/
def execSubN (n : Byte) (s : State) : Host.Outcome State Fault Refusal := s.conclude (s.aluImm .sub n)

/-- `SBC A,r` (R619). -/
def execSbcAR (r : Reg8) (s : State) : Host.Outcome State Fault Refusal := s.conclude (s.aluReg .sbc r)

/-- `SBC A,(HL)` (R620). -/
def execSbcAHl (s : State) : Host.Outcome State Fault Refusal := s.conclude (s.aluHl .sbc)

/-- `SBC A,n8` (R621). -/
def execSbcAN (n : Byte) (s : State) : Host.Outcome State Fault Refusal := s.conclude (s.aluImm .sbc n)

/-- `AND r` (R622). -/
def execAndR (r : Reg8) (s : State) : Host.Outcome State Fault Refusal := s.conclude (s.aluReg .and r)

/-- `AND (HL)` (R623). -/
def execAndHl (s : State) : Host.Outcome State Fault Refusal := s.conclude (s.aluHl .and)

/-- `AND n8` (R624). -/
def execAndN (n : Byte) (s : State) : Host.Outcome State Fault Refusal := s.conclude (s.aluImm .and n)

/-- `XOR r` (R625). -/
def execXorR (r : Reg8) (s : State) : Host.Outcome State Fault Refusal := s.conclude (s.aluReg .xor r)

/-- `XOR (HL)` (R626). -/
def execXorHl (s : State) : Host.Outcome State Fault Refusal := s.conclude (s.aluHl .xor)

/-- `XOR n8` (R627). -/
def execXorN (n : Byte) (s : State) : Host.Outcome State Fault Refusal := s.conclude (s.aluImm .xor n)

/-- `OR r` (R628). -/
def execOrR (r : Reg8) (s : State) : Host.Outcome State Fault Refusal := s.conclude (s.aluReg .or r)

/-- `OR (HL)` (R629). -/
def execOrHl (s : State) : Host.Outcome State Fault Refusal := s.conclude (s.aluHl .or)

/-- `OR n8` (R630). -/
def execOrN (n : Byte) (s : State) : Host.Outcome State Fault Refusal := s.conclude (s.aluImm .or n)

/-- `CP r` (R631). -/
def execCpR (r : Reg8) (s : State) : Host.Outcome State Fault Refusal := s.conclude (s.aluReg .cp r)

/-- `CP (HL)` (R632). -/
def execCpHl (s : State) : Host.Outcome State Fault Refusal := s.conclude (s.aluHl .cp)

/-- `CP n8` (R633). -/
def execCpN (n : Byte) (s : State) : Host.Outcome State Fault Refusal := s.conclude (s.aluImm .cp n)

/-- `INC r` (R640). -/
def execIncR (r : Reg8) (s : State) : Host.Outcome State Fault Refusal :=
  s.conclude (.ok ((((s.advance 1).setReg r (s.reg r + 1)).setFlags (incFlags (s.reg r) s.regs.f)).cost 4))

/-- `INC (HL)` (R641). -/
def execIncHl (s : State) : Host.Outcome State Fault Refusal :=
  s.conclude (s.modifyHl 1 12 (fun v _ => v + 1) incFlags)

/-- `DEC r` (R642). -/
def execDecR (r : Reg8) (s : State) : Host.Outcome State Fault Refusal :=
  s.conclude (.ok ((((s.advance 1).setReg r (s.reg r - 1)).setFlags (decFlags (s.reg r) s.regs.f)).cost 4))

/-- `DEC (HL)` (R643). -/
def execDecHl (s : State) : Host.Outcome State Fault Refusal :=
  s.conclude (s.modifyHl 1 12 (fun v _ => v - 1) decFlags)

/-- `DAA` (R650). -/
def execDaa (s : State) : Host.Outcome State Fault Refusal :=
  s.conclude (.ok ((((s.advance 1).setReg .a (daaResult s.regs.a s.regs.f).1).setFlags (daaResult s.regs.a s.regs.f).2).cost 4))

/-- `CPL` (R651). -/
def execCpl (s : State) : Host.Outcome State Fault Refusal :=
  s.conclude (.ok ((((s.advance 1).setReg .a (s.regs.a ^^^ 0xFF)).setFlags { s.regs.f with n := true, h := true }).cost 4))

/-- `SCF` (R652). -/
def execScf (s : State) : Host.Outcome State Fault Refusal :=
  s.conclude (.ok (((s.advance 1).setFlags { s.regs.f with n := false, h := false, c := true }).cost 4))

/-- `CCF` (R653). -/
def execCcf (s : State) : Host.Outcome State Fault Refusal :=
  s.conclude (.ok (((s.advance 1).setFlags { s.regs.f with n := false, h := false, c := !s.regs.f.c }).cost 4))

end Sys2Proof.Machine
end

