-- ==== Sys2Proof/Machine/BitOps.lean ====
section
/-! DEFINITION. Bit test, reset and set (`43_bit.md`): one meaning per row. -/

namespace Sys2Proof.Machine

/-- `BIT b,r` (R910). -/
def execBitR (k : BitVec 3) (r : Reg8) (s : State) : Host.Outcome State Fault Refusal :=
  s.conclude (.ok (((s.advance 2).setFlags (bitFlags (s.reg r) k s.regs.f)).cost 8))

/-- `BIT b,(HL)` (R911). -/
def execBitHl (k : BitVec 3) (s : State) : Host.Outcome State Fault Refusal :=
  s.conclude do
    let (v, s) ← (s.advance 2).read s.regs.hl
    .ok ((s.setFlags (bitFlags v k s.regs.f)).cost 12)

/-- `RES b,r` (R912). -/
def execResR (k : BitVec 3) (r : Reg8) (s : State) : Host.Outcome State Fault Refusal :=
  s.conclude (.ok (((s.advance 2).setReg r (s.reg r &&& ~~~bitMask k)).cost 8))

/-- `RES b,(HL)` (R913). -/
def execResHl (k : BitVec 3) (s : State) : Host.Outcome State Fault Refusal :=
  s.conclude (s.modifyHl 2 16 (fun v _ => v &&& ~~~bitMask k) (fun _ f => f))

/-- `SET b,r` (R914). -/
def execSetR (k : BitVec 3) (r : Reg8) (s : State) : Host.Outcome State Fault Refusal :=
  s.conclude (.ok (((s.advance 2).setReg r (s.reg r ||| bitMask k)).cost 8))

/-- `SET b,(HL)` (R915). -/
def execSetHl (k : BitVec 3) (s : State) : Host.Outcome State Fault Refusal :=
  s.conclude (s.modifyHl 2 16 (fun v _ => v ||| bitMask k) (fun _ f => f))

end Sys2Proof.Machine
end

