-- ==== Sys2Proof/Machine/Control.lean ====
section
/-! DEFINITION. Jumps, calls, returns and restarts (`45_control.md`): one meaning per row. -/

namespace Sys2Proof.Machine

/-- `JP a16` (R1110). -/
def execJp (nn : Word) (s : State) : Host.Outcome State Fault Refusal := s.conclude (s.jumpIf 3 true nn 16 16)

/-- `JP cc,a16` (R1111). -/
def execJpCc (cc : Cond) (nn : Word) (s : State) : Host.Outcome State Fault Refusal :=
  s.conclude (s.jumpIf 3 (condHolds cc s.regs.f) nn 16 12)

/-- `JP HL` (R1112). -/
def execJpHl (s : State) : Host.Outcome State Fault Refusal := s.conclude (s.jumpIf 1 true s.regs.hl 4 4)

/-- `JR e8` (R1113). -/
def execJr (e : Byte) (s : State) : Host.Outcome State Fault Refusal :=
  s.conclude (s.jumpIf 2 true ((s.advance 2).pc + sext16 e) 12 12)

/-- `JR cc,e8` (R1114). -/
def execJrCc (cc : Cond) (e : Byte) (s : State) : Host.Outcome State Fault Refusal :=
  s.conclude (s.jumpIf 2 (condHolds cc s.regs.f) ((s.advance 2).pc + sext16 e) 12 8)

/-- `CALL a16` (R1115). -/
def execCall (nn : Word) (s : State) : Host.Outcome State Fault Refusal := s.conclude (s.callIf 3 true nn 24 24)

/-- `CALL cc,a16` (R1116). -/
def execCallCc (cc : Cond) (nn : Word) (s : State) : Host.Outcome State Fault Refusal :=
  s.conclude (s.callIf 3 (condHolds cc s.regs.f) nn 24 12)

/-- `RET` (R1117). -/
def execRet (s : State) : Host.Outcome State Fault Refusal := s.conclude (s.returnIf true 16 16)

/-- `RET cc` (R1118). -/
def execRetCc (cc : Cond) (s : State) : Host.Outcome State Fault Refusal :=
  s.conclude (s.returnIf (condHolds cc s.regs.f) 20 8)

/-- `RETI` (R1119). -/
def execReti (s : State) : Host.Outcome State Fault Refusal :=
  s.conclude do
    let t ← (s.advance 1).returnFromInterrupt
    .ok (t.cost 16)

/-- `RST t` (R1120). -/
def execRst (t : BitVec 3) (s : State) : Host.Outcome State Fault Refusal :=
  s.conclude (s.callIf 1 true (BitVec.ofNat 16 (8 * t.toNat)) 16 16)

end Sys2Proof.Machine
end

