-- ==== Sys2Proof/Machine/Load.lean ====
section
/-! DEFINITION. Loads (`44_load.md`): one meaning per row. -/

namespace Sys2Proof.Machine

/-- `LD r,r'` (R1010). -/
def execLdRR (dst : Reg8) (src : Reg8) (s : State) : Host.Outcome State Fault Refusal :=
  s.conclude (.ok (((s.advance 1).setReg dst (s.reg src)).cost 4))

/-- `LD r,(HL)` (R1011). -/
def execLdRHl (dst : Reg8) (s : State) : Host.Outcome State Fault Refusal :=
  s.conclude do
    let (v, s) ← (s.advance 1).read s.regs.hl
    .ok ((s.setReg dst v).cost 8)

/-- `LD (HL),r` (R1012). -/
def execLdHlR (src : Reg8) (s : State) : Host.Outcome State Fault Refusal :=
  s.conclude (s.storeByte 1 8 s.regs.hl (s.reg src))

/-- `LD r,n8` (R1013). -/
def execLdRN (dst : Reg8) (n : Byte) (s : State) : Host.Outcome State Fault Refusal :=
  s.conclude (.ok (((s.advance 2).setReg dst n).cost 8))

/-- `LD (HL),n8` (R1014). -/
def execLdHlN (n : Byte) (s : State) : Host.Outcome State Fault Refusal := s.conclude (s.storeByte 2 12 s.regs.hl n)

/-- `LD A,(BC)` (R1020). -/
def execLdABc (s : State) : Host.Outcome State Fault Refusal := s.conclude (s.loadA 1 8 s.regs.bc)

/-- `LD A,(DE)` (R1021). -/
def execLdADe (s : State) : Host.Outcome State Fault Refusal := s.conclude (s.loadA 1 8 s.regs.de)

/-- `LD A,(HL+)` (R1022). -/
def execLdAHli (s : State) : Host.Outcome State Fault Refusal :=
  s.conclude do
    let t ← s.loadA 1 8 s.regs.hl
    .ok (t.setHl (s.regs.hl + 1))

/-- `LD A,(HL-)` (R1023). -/
def execLdAHld (s : State) : Host.Outcome State Fault Refusal :=
  s.conclude do
    let t ← s.loadA 1 8 s.regs.hl
    .ok (t.setHl (s.regs.hl - 1))

/-- `LD (BC),A` (R1024). -/
def execLdBcA (s : State) : Host.Outcome State Fault Refusal := s.conclude (s.storeByte 1 8 s.regs.bc s.regs.a)

/-- `LD (DE),A` (R1025). -/
def execLdDeA (s : State) : Host.Outcome State Fault Refusal := s.conclude (s.storeByte 1 8 s.regs.de s.regs.a)

/-- `LD (HL+),A` (R1026). -/
def execLdHliA (s : State) : Host.Outcome State Fault Refusal :=
  s.conclude do
    let t ← s.storeByte 1 8 s.regs.hl s.regs.a
    .ok (t.setHl (s.regs.hl + 1))

/-- `LD (HL-),A` (R1027). -/
def execLdHldA (s : State) : Host.Outcome State Fault Refusal :=
  s.conclude do
    let t ← s.storeByte 1 8 s.regs.hl s.regs.a
    .ok (t.setHl (s.regs.hl - 1))

/-- `LD A,(a16)` (R1030). -/
def execLdAA16 (nn : Word) (s : State) : Host.Outcome State Fault Refusal := s.conclude (s.loadA 3 16 nn)

/-- `LD (a16),A` (R1031). -/
def execLdA16A (nn : Word) (s : State) : Host.Outcome State Fault Refusal := s.conclude (s.storeByte 3 16 nn s.regs.a)

/-- `LDH A,(a8)` (R1032). -/
def execLdhAA8 (n : Byte) (s : State) : Host.Outcome State Fault Refusal := s.conclude (s.loadA 2 12 (highPage n))

/-- `LDH (a8),A` (R1033). -/
def execLdhA8A (n : Byte) (s : State) : Host.Outcome State Fault Refusal :=
  s.conclude (s.storeByte 2 12 (highPage n) s.regs.a)

/-- `LDH A,(C)` (R1034). -/
def execLdhAC (s : State) : Host.Outcome State Fault Refusal := s.conclude (s.loadA 1 8 (highPage s.regs.c))

/-- `LDH (C),A` (R1035). -/
def execLdhCA (s : State) : Host.Outcome State Fault Refusal :=
  s.conclude (s.storeByte 1 8 (highPage s.regs.c) s.regs.a)

/-- `LD rr,n16` (R1040). -/
def execLdRrN (p : Reg16) (nn : Word) (s : State) : Host.Outcome State Fault Refusal :=
  s.conclude (.ok (((s.advance 3).setPair p nn).cost 12))

/-- `LD (a16),SP` (R1041). -/
def execLdA16Sp (nn : Word) (s : State) : Host.Outcome State Fault Refusal :=
  s.conclude do
    let t ← (s.advance 3).write nn (lo8 s.sp)
    let t ← t.write (nn + 1) (hi8 s.sp)
    .ok (t.cost 20)

/-- `LD SP,HL` (R1042). -/
def execLdSpHl (s : State) : Host.Outcome State Fault Refusal :=
  s.conclude (.ok ({ s.advance 1 with sp := s.regs.hl }.cost 8))

end Sys2Proof.Machine
end

