-- ==== Sys2Proof/Machine/Rotate.lean ====
section
/-! DEFINITION. Rotates, shifts and SWAP (`42_rotate_shift.md`): one meaning per row. -/

namespace Sys2Proof.Machine

/-- `RLCA` (R810). -/
def execRlca (s : State) : Host.Outcome State Fault Refusal := s.conclude (s.rotateA .rlc)

/-- `RRCA` (R811). -/
def execRrca (s : State) : Host.Outcome State Fault Refusal := s.conclude (s.rotateA .rrc)

/-- `RLA` (R812). -/
def execRla (s : State) : Host.Outcome State Fault Refusal := s.conclude (s.rotateA .rl)

/-- `RRA` (R813). -/
def execRra (s : State) : Host.Outcome State Fault Refusal := s.conclude (s.rotateA .rr)

/-- `RLC r` (R820). -/
def execRlcR (r : Reg8) (s : State) : Host.Outcome State Fault Refusal := s.conclude (s.shiftReg .rlc r)

/-- `RLC (HL)` (R821). -/
def execRlcHl (s : State) : Host.Outcome State Fault Refusal := s.conclude (s.shiftHl .rlc)

/-- `RRC r` (R822). -/
def execRrcR (r : Reg8) (s : State) : Host.Outcome State Fault Refusal := s.conclude (s.shiftReg .rrc r)

/-- `RRC (HL)` (R823). -/
def execRrcHl (s : State) : Host.Outcome State Fault Refusal := s.conclude (s.shiftHl .rrc)

/-- `RL r` (R824). -/
def execRlR (r : Reg8) (s : State) : Host.Outcome State Fault Refusal := s.conclude (s.shiftReg .rl r)

/-- `RL (HL)` (R825). -/
def execRlHl (s : State) : Host.Outcome State Fault Refusal := s.conclude (s.shiftHl .rl)

/-- `RR r` (R826). -/
def execRrR (r : Reg8) (s : State) : Host.Outcome State Fault Refusal := s.conclude (s.shiftReg .rr r)

/-- `RR (HL)` (R827). -/
def execRrHl (s : State) : Host.Outcome State Fault Refusal := s.conclude (s.shiftHl .rr)

/-- `SLA r` (R828). -/
def execSlaR (r : Reg8) (s : State) : Host.Outcome State Fault Refusal := s.conclude (s.shiftReg .sla r)

/-- `SLA (HL)` (R829). -/
def execSlaHl (s : State) : Host.Outcome State Fault Refusal := s.conclude (s.shiftHl .sla)

/-- `SRA r` (R830). -/
def execSraR (r : Reg8) (s : State) : Host.Outcome State Fault Refusal := s.conclude (s.shiftReg .sra r)

/-- `SRA (HL)` (R831). -/
def execSraHl (s : State) : Host.Outcome State Fault Refusal := s.conclude (s.shiftHl .sra)

/-- `SWAP r` (R832). -/
def execSwapR (r : Reg8) (s : State) : Host.Outcome State Fault Refusal := s.conclude (s.shiftReg .swap r)

/-- `SWAP (HL)` (R833). -/
def execSwapHl (s : State) : Host.Outcome State Fault Refusal := s.conclude (s.shiftHl .swap)

/-- `SRL r` (R834). -/
def execSrlR (r : Reg8) (s : State) : Host.Outcome State Fault Refusal := s.conclude (s.shiftReg .srl r)

/-- `SRL (HL)` (R835). -/
def execSrlHl (s : State) : Host.Outcome State Fault Refusal := s.conclude (s.shiftHl .srl)

end Sys2Proof.Machine
end

