-- ==== Sys2Proof/Machine/Stack.lean ====
section
/-! DEFINITION. PUSH and POP (`46_stack.md`): one meaning per row. -/

namespace Sys2Proof.Machine

/-- `PUSH rr` (R1210). -/
def execPush (q : Reg16Stk) (s : State) : Host.Outcome State Fault Refusal :=
  s.conclude do
    let t ← (s.advance 1).push16 (s.stkPair q)
    .ok (t.cost 16)

/-- `POP rr` (R1211). -/
def execPop (q : Reg16Stk) (s : State) : Host.Outcome State Fault Refusal :=
  s.conclude do
    let (v, t) ← (s.advance 1).pop16
    .ok ((t.setStkPair q v).cost 12)

end Sys2Proof.Machine
end

