-- ==== Sys2Proof/Machine/System.lean ====
section
/-! DEFINITION. System instructions, the prefix byte and the illegal opcodes (`47_system.md`): one meaning per row. -/

namespace Sys2Proof.Machine

/-- The shift operation field (`30_encoding.md` R510). -/
def shiftOpOf : Fin 8 → ShiftOp
  | 0 => .rlc | 1 => .rrc | 2 => .rl | 3 => .rr | 4 => .sla | 5 => .sra | 6 => .swap | 7 => .srl

/-- The rule that the second byte names in the secondary space, run on a state whose pc is still at the prefix
(`30_encoding.md` R532). -/
def State.runSecondary (s : State) (op2 : Byte) : Eff State :=
  let k := op2.extractLsb' 3 3
  match quarterField op2, reg8Of (zField op2) with
  | 0, some r => s.shiftReg (shiftOpOf (yField op2)) r
  | 0, none => s.shiftHl (shiftOpOf (yField op2))
  | 1, some r => .ok (((s.advance 2).setFlags (bitFlags (s.reg r) k s.regs.f)).cost 8)
  | 1, none => do
    let (v, s) ← (s.advance 2).read s.regs.hl
    .ok ((s.setFlags (bitFlags v k s.regs.f)).cost 12)
  | 2, some r => .ok (((s.advance 2).setReg r (s.reg r &&& ~~~bitMask k)).cost 8)
  | 2, none => s.modifyHl 2 16 (fun v _ => v &&& ~~~bitMask k) (fun _ f => f)
  | 3, some r => .ok (((s.advance 2).setReg r (s.reg r ||| bitMask k)).cost 8)
  | 3, none => s.modifyHl 2 16 (fun v _ => v ||| bitMask k) (fun _ f => f)

/-- `NOP` (R1310). -/
def execNop (s : State) : Host.Outcome State Fault Refusal :=
  s.conclude (.ok ((s.advance 1).cost 4))

/-- `STOP` (R1311). -/
def execStop (_x : Byte) (s : State) : Host.Outcome State Fault Refusal :=
  s.conclude (.ok ({ (s.advance 2).divReset with stopped := true }.cost 4))

/-- `HALT` (R1312). -/
def execHalt (s : State) : Host.Outcome State Fault Refusal :=
  s.conclude <|
    let s := s.advance 1
    .ok ((if !s.ime && s.pending != 0 then { s with haltBug := true } else { s with halted := true }).cost 4)

/-- `DI` (R1313). -/
def execDi (s : State) : Host.Outcome State Fault Refusal :=
  s.conclude (.ok ({ s.advance 1 with ime := false, eiDelay := 0 }.cost 4))

/-- `EI` (R1314). -/
def execEi (s : State) : Host.Outcome State Fault Refusal :=
  s.conclude (.ok ({ s.advance 1 with eiDelay := if s.eiDelay = 0 then 2 else s.eiDelay }.cost 4))

/-- `PREFIX CB` (R1315). -/
def execPrefixCb (s : State) : Host.Outcome State Fault Refusal :=
  s.conclude do
    let (op2, t) ← s.read s.operandAddr
    t.runSecondary op2

/-- `ILLEGAL 0xD3` (R1316). -/
def execIllegalD3 (s : State) : Host.Outcome State Fault Refusal := s.illegal 0xD3

/-- `ILLEGAL 0xDB` (R1316). -/
def execIllegalDB (s : State) : Host.Outcome State Fault Refusal := s.illegal 0xDB

/-- `ILLEGAL 0xDD` (R1316). -/
def execIllegalDD (s : State) : Host.Outcome State Fault Refusal := s.illegal 0xDD

/-- `ILLEGAL 0xE3` (R1316). -/
def execIllegalE3 (s : State) : Host.Outcome State Fault Refusal := s.illegal 0xE3

/-- `ILLEGAL 0xE4` (R1316). -/
def execIllegalE4 (s : State) : Host.Outcome State Fault Refusal := s.illegal 0xE4

/-- `ILLEGAL 0xEB` (R1316). -/
def execIllegalEB (s : State) : Host.Outcome State Fault Refusal := s.illegal 0xEB

/-- `ILLEGAL 0xEC` (R1316). -/
def execIllegalEC (s : State) : Host.Outcome State Fault Refusal := s.illegal 0xEC

/-- `ILLEGAL 0xED` (R1316). -/
def execIllegalED (s : State) : Host.Outcome State Fault Refusal := s.illegal 0xED

/-- `ILLEGAL 0xF4` (R1316). -/
def execIllegalF4 (s : State) : Host.Outcome State Fault Refusal := s.illegal 0xF4

/-- `ILLEGAL 0xFC` (R1316). -/
def execIllegalFC (s : State) : Host.Outcome State Fault Refusal := s.illegal 0xFC

/-- `ILLEGAL 0xFD` (R1316). -/
def execIllegalFD (s : State) : Host.Outcome State Fault Refusal := s.illegal 0xFD

end Sys2Proof.Machine
end

