-- ==== Sys2Proof/Machine/Step.lean ====
section
/-! DEFINITION. One step of the whole machine, and the placing of an instruction where the next step fetches it. -/

namespace Sys2Proof.Machine

/-- `Step()` (`60_exceptions.md` R1760). -/
def step (s : State) : Host.Outcome State Fault Refusal := s.stepWith exec

/-- The state whose next step fetches and runs the instruction of a table word (log 11, log 20). -/
def State.withFetchWord (s : State) (nbits w : Nat) : State := s.placeNext (tableBytes nbits w)

end Sys2Proof.Machine
end

