-- ==== Sys2Proof/Machine/HostOps.lean ====
section
/-! DEFINITION. The host's operations besides the step: load, buttons, wake, frame, save RAM (`60_exceptions.md`
R1780-R1784, `20_memory.md` R400-R404, `70_reset_and_hazards.md` R1800). They act between steps and are no part of
`step` (log 19). -/

namespace Sys2Proof.Machine

/-- A byte sequence: its length, and its bytes that are not 0x00 or are listed all the same. -/
structure Image where
  bytes : Memory
  len   : Nat
  deriving DecidableEq, Repr

/-- Byte `i` of an image. -/
def Image.byte (m : Image) (i : Nat) : Byte := Memory.get m.bytes (fun _ => 0) i

/-- What a load is given (`60_exceptions.md` R1780) and the parameters of `00_scope.md` R20. -/
structure LoadArgs where
  rom       : Image
  /-- `SAVE_RAM` (log 23). -/
  saveRam   : Option (List Byte)
  /-- `BOOTROM`. -/
  bootRom   : Option Memory
  hw        : Hw
  gapRead   : Byte
  videoLock : VideoLock
  mode3     : Mode3
  /-- `POSTBOOT`: the state record a load without a boot ROM starts from; `none` for the table of `10_state.md` R290. -/
  postBoot  : Option State
  /-- `SUPPORTED`: the controller types implemented, as header bytes. -/
  supported : List Byte
  deriving DecidableEq, Repr

/-- Why a load fails: the load-time fatal errors, and the refusal of compatibility mode (`20_memory.md` R403). -/
inductive LoadError where
  | imageTooShort
  | unsupportedType (t : Byte)
  | badRomSize (n : Byte)
  | badRamSize (n : Byte)
  | cgbCompatibility
  deriving DecidableEq, Repr

/-- A cartridge type: the controller with its latches at reset, whether the type has RAM, whether it has a battery. -/
structure CartType where
  ctrl    : Controller
  hasRam  : Bool
  battery : Bool
  deriving DecidableEq, Repr

/-- ROM only (`20_memory.md` R410). -/
def ctrlRomOnly : Controller := .romOnly

/-- MBC1 at reset (`20_memory.md` R420). -/
def ctrlMbc1 : Controller := .mbc1 false 1 0 false

/-- MBC2 at reset (`20_memory.md` R430). -/
def ctrlMbc2 : Controller := .mbc2 false 1

/-- MBC3 at reset (`20_memory.md` R440). -/
def ctrlMbc3 : Controller := .mbc3 false 1 0

/-- MBC5 at reset (`20_memory.md` R450). -/
def ctrlMbc5 (rumble : Bool) : Controller := .mbc5 rumble false 1 0

/-- The type table (`20_memory.md` R400). -/
def cartType (t : Byte) : Option CartType :=
  match t.toNat with
  | 0x00 => some ⟨ctrlRomOnly, false, false⟩
  | 0x08 => some ⟨ctrlRomOnly, true, false⟩
  | 0x09 => some ⟨ctrlRomOnly, true, true⟩
  | 0x01 => some ⟨ctrlMbc1, false, false⟩
  | 0x02 => some ⟨ctrlMbc1, true, false⟩
  | 0x03 => some ⟨ctrlMbc1, true, true⟩
  | 0x05 => some ⟨ctrlMbc2, true, false⟩
  | 0x06 => some ⟨ctrlMbc2, true, true⟩
  | 0x0F => some ⟨ctrlMbc3, false, true⟩
  | 0x10 => some ⟨ctrlMbc3, true, true⟩
  | 0x11 => some ⟨ctrlMbc3, false, false⟩
  | 0x12 => some ⟨ctrlMbc3, true, false⟩
  | 0x13 => some ⟨ctrlMbc3, true, true⟩
  | 0x19 => some ⟨ctrlMbc5 false, false, false⟩
  | 0x1A => some ⟨ctrlMbc5 false, true, false⟩
  | 0x1B => some ⟨ctrlMbc5 false, true, true⟩
  | 0x1C => some ⟨ctrlMbc5 true, false, false⟩
  | 0x1D => some ⟨ctrlMbc5 true, true, false⟩
  | 0x1E => some ⟨ctrlMbc5 true, true, true⟩
  | _ => none

/-- The default of `SUPPORTED`: every type of the table (`00_scope.md` R20). -/
def allTypes : List Byte :=
  [0x00, 0x08, 0x09, 0x01, 0x02, 0x03, 0x05, 0x06, 0x0F, 0x10, 0x11, 0x12, 0x13, 0x19, 0x1A, 0x1B, 0x1C, 0x1D, 0x1E]

/-- The declared ROM size, if the size byte is a legal one (`20_memory.md` R401). -/
def declaredRomSize (n : Byte) : Option Nat := if n.toNat ≤ 8 then some (32768 * 2 ^ n.toNat) else none

/-- The declared RAM size, if the size byte is a legal one (`20_memory.md` R402). -/
def declaredRamSize (n : Byte) : Option Nat :=
  match n.toNat with
  | 0x00 => some 0
  | 0x01 => some 0x800
  | 0x02 => some 0x2000
  | 0x03 => some 0x8000
  | 0x04 => some 0x20000
  | 0x05 => some 0x10000
  | _ => none

/-- The size of the external RAM of a cartridge of this type: MBC2's own 512 cells, none for a type without RAM, else
the declared size (`20_memory.md` R402). -/
def ramSize (t : CartType) (declared : Nat) : Nat :=
  match t.ctrl with
  | .mbc2 .. => 512
  | .romOnly | .mbc1 .. | .mbc3 .. | .mbc5 .. => if t.hasRam then declared else 0

/-- The external RAM at load: `SAVE_RAM` on a battery cartridge, else nothing written yet (`10_state.md` R135,
`20_memory.md` R404; log 23). -/
def initialRam (t : CartType) (size : Nat) (save : Option (List Byte)) : Memory :=
  match t.battery, save with
  | true, some bs => Memory.ofBytes 0 (bs.take size)
  | _, _ => []

/-- The start state a `POSTBOOT` record gives: the record, with the parameters and the cartridge of the load, and no boot
ROM mapped (`00_scope.md` R20, `10_state.md` R290; log 19). -/
def State.startFrom (r : State) (cfg : Params) (cart : Cart) : State :=
  { r with cfg := cfg, cart := cart, bootMapped := false }

/-- The state of a load that passes its checks (`70_reset_and_hazards.md` R1800). -/
def LoadArgs.start (x : LoadArgs) (cfg : Params) (cart : Cart) : State :=
  if x.bootRom.isSome then powerOn cfg cart
  else match x.postBoot with
    | some r => r.startFrom cfg cart
    | none => Machine.postBoot cfg cart

/-- `load(ROM, SAVE_RAM?, BOOTROM?)`: the checks of `20_memory.md` R403, then the state of `70_reset_and_hazards.md`
R1800. -/
def load (x : LoadArgs) : Except LoadError State :=
  let typeByte := x.rom.byte 0x147
  let cgbFlag := (x.rom.byte 0x143).getLsbD 7
  if x.rom.len < 0x150 then .error .imageTooShort
  else match cartType typeByte, declaredRomSize (x.rom.byte 0x148), declaredRamSize (x.rom.byte 0x149) with
    | none, _, _ => .error (.unsupportedType typeByte)
    | some _, none, _ => .error (.badRomSize (x.rom.byte 0x148))
    | some _, some _, none => .error (.badRamSize (x.rom.byte 0x149))
    | some t, some _, some declared =>
      if !x.supported.contains typeByte then .error (.unsupportedType typeByte)
      else if x.hw == .cgb && !cgbFlag then .error .cgbCompatibility
      else
        let cfg : Params :=
          { hw := x.hw, cgbMode := x.hw == .cgb && cgbFlag, gapRead := x.gapRead, videoLock := x.videoLock
            mode3 := x.mode3, bootRom := x.bootRom }
        let size := ramSize t declared
        let cart : Cart :=
          { ctrl := t.ctrl, battery := t.battery, rom := x.rom.bytes, romLen := x.rom.len
            ram := initialRam t size x.saveRam, ramLen := size }
        .ok (x.start cfg cart)

/-- The defaults of `00_scope.md` R20, and for `ROM` 32 KiB of zero bytes (log 2). -/
def LoadArgs.default : LoadArgs :=
  { rom := { bytes := [], len := 0x8000 }, saveRam := none, bootRom := none, hw := .dmg, gapRead := 0xFF
    videoLock := .free, mode3 := .constant 0, postBoot := none, supported := allTypes }

/-- `setButtons(pressed)` (`60_exceptions.md` R1701, R1702). -/
def State.setButtons (s : State) (pressed : Buttons) : State := s.setJoypad { s.joypad with pressed := pressed }

/-- `wake()` (`60_exceptions.md` R1782). -/
def State.wake (s : State) : State := { s with stopped := false }

/-- `frame()` (`60_exceptions.md` R1783). -/
def State.frame (s : State) : List (List Pixel) := s.ppu.fb

/-- `saveRam()`: the external RAM as a flat byte sequence of the declared size; MBC2's cells in the low nibbles
(`60_exceptions.md` R1784, `20_memory.md` R404). -/
def State.saveRam (s : State) : List Byte :=
  (List.range s.cart.ramLen).map fun i =>
    match s.cart.ctrl with
    | .mbc2 .. => s.cart.ramByte i &&& 0x0F
    | .romOnly | .mbc1 .. | .mbc3 .. | .mbc5 .. => s.cart.ramByte i

end Sys2Proof.Machine
end

