-- ==== Sys2Proof/Safety.lean ====
section
/-! DEFINITION. The terms the claims are stated in: the invariants of the machine, and the shapes of what an instruction
may change. -/

namespace Sys2Proof.Machine

/-! ### Invariants -/

/-- Every offset of a memory is below `n`. -/
def Memory.below (n : Nat) (m : Memory) : Bool := m.all fun c => decide (c.1 < n)

/-- The canonical form of every memory of the machine (log 3). -/
def State.MemWf (s : State) : Prop :=
  Memory.wf s.vram = true ∧ Memory.wf s.wram = true ∧ Memory.wf s.oam = true ∧ Memory.wf s.hram = true ∧
    Memory.wf s.bgPal = true ∧ Memory.wf s.objPal = true ∧ Memory.wf s.cart.ram = true

/-- No memory lists an offset it does not have: the sizes of `10_state.md` R130-R137, one VRAM bank and two WRAM banks in
DMG mode (`00_scope.md` R22). -/
def State.MemSized (s : State) : Prop :=
  Memory.below (if s.cfg.cgbMode then 0x4000 else 0x2000) s.vram = true ∧
    Memory.below (if s.cfg.cgbMode then 0x8000 else 0x2000) s.wram = true ∧
    Memory.below 160 s.oam = true ∧ Memory.below 127 s.hram = true ∧
    Memory.below 64 s.bgPal = true ∧ Memory.below 64 s.objPal = true ∧
    Memory.below s.cart.ramLen s.cart.ram = true ∧
    (∀ en romb, s.cart.ctrl = .mbc2 en romb → s.cart.ramLen = 512)

/-- The mode the schedule gives a cycle of a line (`60_exceptions.md` R1600). -/
def scheduledMode (ly dot mode3Len : Nat) : PpuMode :=
  if 144 ≤ ly then .vblank
  else if dot < 80 then .oamScan
  else if dot < 80 + mode3Len then .transfer
  else .hblank

/-- The picture unit is where the schedule has it while the display is on (`60_exceptions.md` R1600), and idle at LY 0,
dot 0, mode 0 while it is off (R1606, R1607); `MODE3_LEN` is in its range (`00_scope.md` R20); the window's line counter
is at most the number of lines of the frame rendered so far, and at most 143 (`60_exceptions.md` R1624, `10_state.md`
R191; log 12). -/
def Ppu.Scheduled (p : Ppu) : Prop :=
  172 ≤ p.mode3Len ∧ p.mode3Len ≤ 289 ∧ p.winLine ≤ 143 ∧
    if p.on then
      p.dot ≤ 455 ∧ p.ly ≤ 153 ∧ p.mode = scheduledMode p.ly p.dot p.mode3Len ∧
        (p.ly < 144 → p.winLine ≤ p.ly + if p.mode = .hblank then 1 else 0)
    else p.dot = 0 ∧ p.ly = 0 ∧ p.mode = .hblank

/-- The framebuffer is 144 rows of 160 values (`10_state.md` R191), and all blank while the display is off
(`60_exceptions.md` R1607). -/
def State.FrameShaped (s : State) : Prop :=
  s.ppu.fb.length = 144 ∧ (∀ row ∈ s.ppu.fb, row.length = 160) ∧
    (s.ppu.on = false → s.ppu.fb = blankFrame s.cfg.cgbMode)

/-- No bank latch holds a value its controller's commands never give it (`20_memory.md` R421, R431, R441, R450, R460). -/
def State.LatchesLegal (s : State) : Prop := s.cart.ctrl.badLatch = none

/-- The invariant of the machine. -/
def State.Inv (s : State) : Prop :=
  s.MemWf ∧ s.MemSized ∧ s.ppu.Scheduled ∧ s.FrameShaped ∧ s.LatchesLegal ∧ 0x150 ≤ s.cart.romLen

/-! ### Shapes of change -/

/-- pc after an instruction of `n` bytes that does not transfer control: the byte after it, one less under the HALT bug,
whose fetch does not advance pc (`10_state.md` R104, `47_system.md` R1312). -/
def State.nextPc (s : State) (n : Nat) : Word :=
  if s.haltBug then s.pc + BitVec.ofNat 16 n - 1 else s.pc + BitVec.ofNat 16 n

/-- The state `u` after an instruction of `n` bytes and `c` cycles that leaves these registers and does nothing else. -/
def State.stepTo (s u : State) (n c : Nat) (x : Regs) : State :=
  { u with regs := x, pc := s.nextPc n, haltBug := false, cycles := c }

/-- The machine may take a step: no mark, no impossible state (`47_system.md` R1300). -/
def State.Live (s : State) : Prop := s.fatal = none ∧ s.refused = none ∧ s.impossible = none

/-- The CPU executes an instruction in this step: it is neither stopped nor halted, and no interrupt is taken
(`47_system.md` R1300). -/
def State.Executes (s : State) : Prop :=
  s.stopped = false ∧ s.halted = false ∧ (s.ime = true → s.pending = 0)

/-- Both states agree on everything but the CPU's own part: registers, SP, pc, IME, the delay, the low-power bits, the
marks, the cycle count, and the model's draw counter. -/
def State.SameBus (s t : State) : Prop :=
  t = { s with
    regs := t.regs, sp := t.sp, pc := t.pc, ime := t.ime, eiDelay := t.eiDelay, halted := t.halted
    haltBug := t.haltBug, stopped := t.stopped, fatal := t.fatal, refused := t.refused, cycles := t.cycles
    draws := t.draws }

/-- A bus target that is plain read/write memory just now: not a device, not the gap, not locked by the picture unit
(`20_memory.md` R311, R322). MBC2's cells are left out: a read of one gives 0xF0 with the cell. -/
def State.PlainRam (s : State) : Target → Prop
  | .vram _ => s.cfg.videoLock = .free ∨ s.vramBusy = false
  | .oam _ => s.cfg.videoLock = .free ∨ s.oamBusy = false
  | .ext (.ram _) | .wram _ | .hram _ | .ie => True
  | .boot _ | .rom _ | .ext (.nibble _) | .ext .closed | .ext .clock | .gap | .io _ | .unmapped => False

/-! ### What the claims say of an instruction -/

/-- The address byte `k` of the next instruction is fetched from: under the HALT bug the byte after the opcode comes
from the opcode's own address (`47_system.md` R1302, R1312). -/
def State.fetchAddr (s : State) (k : Nat) : Word := if k = 0 then s.pc else s.operandAddr + BitVec.ofNat 16 (k - 1)

/-- The registers after A receives `A + b + cin`, with the flags of `40_alu8.md` R601. -/
def Regs.plus (x : Regs) (b : Byte) (cin : Bool) : Regs :=
  let t := x.a.toNat + b.toNat + cin.toNat
  { x with
    a := BitVec.ofNat 8 t
    f := { z := t % 256 == 0
           n := false
           h := decide (15 < x.a.toNat % 16 + b.toNat % 16 + cin.toNat)
           c := decide (255 < t) } }

/-- The registers after F receives the flags of `A - b - cin` (`40_alu8.md` R602). -/
def Regs.compared (x : Regs) (b : Byte) (cin : Bool) : Regs :=
  { x with
    f := { z := (256 + x.a.toNat - (b.toNat + cin.toNat)) % 256 == 0
           n := true
           h := decide (x.a.toNat % 16 < b.toNat % 16 + cin.toNat)
           c := decide (x.a.toNat < b.toNat + cin.toNat) } }

/-- The registers after A receives `A - b - cin`, with the flags of `40_alu8.md` R602. -/
def Regs.minus (x : Regs) (b : Byte) (cin : Bool) : Regs :=
  { x.compared b cin with a := BitVec.ofNat 8 (256 + x.a.toNat - (b.toNat + cin.toNat)) }

/-- The registers after A receives `r` and F the flags `r = 0`, 0, `h`, 0 (`40_alu8.md` R604). -/
def Regs.logic (x : Regs) (r : Byte) (h : Bool) : Regs :=
  { x with a := r, f := { z := r.toNat == 0, n := false, h := h, c := false } }

/-- The result of a shift operation as a number, and the bit shifted out (`42_rotate_shift.md` R800). -/
def shifted (o : ShiftOp) (v : Byte) (cin : Bool) : Nat × Bool :=
  let n := v.toNat
  match o with
  | .rlc => (n * 2 % 256 + n / 128, decide (128 ≤ n))
  | .rrc => (n / 2 + n % 2 * 128, decide (n % 2 = 1))
  | .rl => (n * 2 % 256 + cin.toNat, decide (128 ≤ n))
  | .rr => (n / 2 + cin.toNat * 128, decide (n % 2 = 1))
  | .sla => (n * 2 % 256, decide (128 ≤ n))
  | .sra => (n / 2 + n / 128 * 128, decide (n % 2 = 1))
  | .swap => (n % 16 * 16 + n / 16, false)
  | .srl => (n / 2, decide (n % 2 = 1))

/-- The registers after a prefixed shift of register `r` (`42_rotate_shift.md` R800). -/
def Regs.shift (x : Regs) (o : ShiftOp) (r : Reg8) : Regs :=
  let t := shifted o (x.get r) x.f.c
  { x.set r (BitVec.ofNat 8 t.1) with f := { z := t.1 == 0, n := false, h := false, c := t.2 } }

/-- The instruction reads the byte at `a`, which gives `b` and leaves `u`, and its next state is `f b u`; where the read
reaches a feature outside the spec, the refusal is its only effect (`60_exceptions.md` R1435). -/
def Loads (i : Instr) (s : State) (a : Word) (f : Byte → State → State) : Prop :=
  (∀ b u, s.read a = .ok (b, u) → exec i s = .next (f b u)) ∧
    ∀ e, s.read a = .error e → exec i s = .next { s with refused := some e }

/-- The instruction writes `v` at `a`, which leaves `u`, and its next state is `f u`; or the write is refused. -/
def StoresByte (i : Instr) (s : State) (a : Word) (v : Byte) (f : State → State) : Prop :=
  (∀ u, s.write a v = .ok u → exec i s = .next (f u)) ∧
    ∀ e, s.write a v = .error e → exec i s = .next { s with refused := some e }

/-- The instruction reads `v` at `a`, then writes `g v` there, which leaves `w`, and its next state is `f v w`; or one of
the two accesses is refused. -/
def Modifies (i : Instr) (s : State) (a : Word) (g : Byte → Byte) (f : Byte → State → State) : Prop :=
  (∀ v u w, s.read a = .ok (v, u) → u.write a (g v) = .ok w → exec i s = .next (f v w)) ∧
    (∀ e, s.read a = .error e → exec i s = .next { s with refused := some e }) ∧
    ∀ v u e, s.read a = .ok (v, u) → u.write a (g v) = .error e → exec i s = .next { s with refused := some e }

/-- The instruction writes the byte `v1` at `a1`, then `v2` at `a2`, which leaves `w`, and its next state is `f w`; or
one of the two writes is refused. -/
def StoresTwo (i : Instr) (s : State) (a1 : Word) (v1 : Byte) (a2 : Word) (v2 : Byte) (f : State → State) : Prop :=
  (∀ u w, s.write a1 v1 = .ok u → u.write a2 v2 = .ok w → exec i s = .next (f w)) ∧
    (∀ e, s.write a1 v1 = .error e → exec i s = .next { s with refused := some e }) ∧
    ∀ u e, s.write a1 v1 = .ok u → u.write a2 v2 = .error e → exec i s = .next { s with refused := some e }

/-- The instruction pushes `v`: the high byte at SP-1, then the low byte at SP-2, SP lowered by 2
(`00_scope.md` R34, `46_stack.md` R1200). -/
def Pushes (i : Instr) (s : State) (v : Word) (f : State → State) : Prop :=
  StoresTwo i s (s.sp - 1) (hi8 v) (s.sp - 2) (lo8 v) fun w => f { w with sp := s.sp - 2 }

/-- The instruction pops a word: the low byte at SP, then the high byte at SP+1, SP raised by 2; its next state is `f`
of the word and the state left; or one of the two reads is refused (`00_scope.md` R34, `46_stack.md` R1200). -/
def Pops (i : Instr) (s : State) (f : Word → State → State) : Prop :=
  (∀ lo u hi w, s.read s.sp = .ok (lo, u) → u.read (s.sp + 1) = .ok (hi, w) →
      exec i s = .next (f (hi ++ lo) { w with sp := s.sp + 2 })) ∧
    (∀ e, s.read s.sp = .error e → exec i s = .next { s with refused := some e }) ∧
    ∀ lo u e, s.read s.sp = .ok (lo, u) → u.read (s.sp + 1) = .error e → exec i s = .next { s with refused := some e }

/-! ### Frames -/

/-- The addresses an instruction stores to, in order. -/
def State.stores (s : State) : Instr → List Word
  | .incHl | .decHl | .rlcHl | .rrcHl | .rlHl | .rrHl | .slaHl | .sraHl | .swapHl | .srlHl | .resHl _ | .setHl _
  | .ldHlR _ | .ldHlN _ | .ldHliA | .ldHldA => [s.regs.hl]
  | .ldBcA => [s.regs.bc]
  | .ldDeA => [s.regs.de]
  | .ldA16A nn => [nn]
  | .ldhA8A n => [highPage n]
  | .ldhCA => [highPage s.regs.c]
  | .ldA16Sp nn => [nn, nn + 1]
  | .push _ | .call _ | .rst _ => [s.sp - 1, s.sp - 2]
  | .callCc cc _ => if condHolds cc s.regs.f then [s.sp - 1, s.sp - 2] else []
  | .prefixCb =>
    match s.peek s.operandAddr with
    | .byte b => if quarterField b ≠ 1 ∧ zField b = 6 then [s.regs.hl] else []
    | .draw => [s.regs.hl]
    | .refuse _ => []
  | .addAR _ | .addAHl | .addAN _ | .adcAR _ | .adcAHl | .adcAN _ | .subR _ | .subHl | .subN _ | .sbcAR _ | .sbcAHl
  | .sbcAN _ | .andR _ | .andHl | .andN _ | .xorR _ | .xorHl | .xorN _ | .orR _ | .orHl | .orN _ | .cpR _ | .cpHl
  | .cpN _ | .incR _ | .decR _ | .daa | .cpl | .scf | .ccf | .addHlRr _ | .incRr _ | .decRr _ | .addSpE _ | .ldHlSpE _
  | .rlca | .rrca | .rla | .rra | .rlcR _ | .rrcR _ | .rlR _ | .rrR _ | .slaR _ | .sraR _ | .swapR _ | .srlR _
  | .bitR _ _ | .bitHl _ | .resR _ _ | .setR _ _ | .ldRR _ _ | .ldRHl _ | .ldRN _ _ | .ldABc | .ldADe | .ldAHli
  | .ldAHld | .ldAA16 _ | .ldhAA8 _ | .ldhAC | .ldRrN _ _ | .ldSpHl | .jp _ | .jpCc _ _ | .jpHl | .jr _ | .jrCc _ _
  | .ret | .retCc _ | .reti | .pop _ | .nop | .stop _ | .halt | .di | .ei | .illegalD3 | .illegalDB | .illegalDD
  | .illegalE3 | .illegalE4 | .illegalEB | .illegalEC | .illegalED | .illegalF4 | .illegalFC | .illegalFD => []

/-- The two registers of a pair, none for SP (`10_state.md` R101). -/
def pairHalves : Reg16 → List Reg8
  | .bc => [.b, .c]
  | .de => [.d, .e]
  | .hl => [.h, .l]
  | .sp => []

/-- The general registers of a stack pair (`10_state.md` R101). -/
def stkHalves : Reg16Stk → List Reg8
  | .bc => [.b, .c]
  | .de => [.d, .e]
  | .hl => [.h, .l]
  | .af => [.a]

/-- The 8-bit registers, F apart, that an instruction writes. The prefix byte's depend on its second byte and are not
listed. -/
def regDests : Instr → List Reg8
  | .addAR _ | .addAHl | .addAN _ | .adcAR _ | .adcAHl | .adcAN _ | .subR _ | .subHl | .subN _ | .sbcAR _ | .sbcAHl
  | .sbcAN _ | .andR _ | .andHl | .andN _ | .xorR _ | .xorHl | .xorN _ | .orR _ | .orHl | .orN _ | .daa | .cpl
  | .rlca | .rrca | .rla | .rra | .ldABc | .ldADe | .ldAA16 _ | .ldhAA8 _ | .ldhAC => [.a]
  | .incR r | .decR r | .rlcR r | .rrcR r | .rlR r | .rrR r | .slaR r | .sraR r | .swapR r | .srlR r | .resR _ r
  | .setR _ r | .ldRR r _ | .ldRHl r | .ldRN r _ => [r]
  | .incRr p | .decRr p | .ldRrN p _ => pairHalves p
  | .pop q => stkHalves q
  | .addHlRr _ | .ldHlSpE _ | .ldHliA | .ldHldA => [.h, .l]
  | .ldAHli | .ldAHld => [.a, .h, .l]
  | .cpR _ | .cpHl | .cpN _ | .incHl | .decHl | .scf | .ccf | .addSpE _ | .rlcHl | .rrcHl | .rlHl | .rrHl | .slaHl
  | .sraHl | .swapHl | .srlHl | .bitR _ _ | .bitHl _ | .resHl _ | .setHl _ | .ldHlR _ | .ldHlN _ | .ldBcA | .ldDeA
  | .ldA16A _ | .ldhA8A _ | .ldhCA | .ldA16Sp _ | .ldSpHl | .jp _ | .jpCc _ _ | .jpHl | .jr _ | .jrCc _ _ | .call _
  | .callCc _ _ | .ret | .retCc _ | .reti | .rst _ | .push _ | .nop | .stop _ | .halt | .di | .ei | .prefixCb
  | .illegalD3 | .illegalDB | .illegalDD | .illegalE3 | .illegalE4 | .illegalEB | .illegalEC | .illegalED
  | .illegalF4 | .illegalFC | .illegalFD => []

/-- The flags an instruction writes, true where it writes one. -/
def flagDests : Instr → Flags
  | .addAR _ | .addAHl | .addAN _ | .adcAR _ | .adcAHl | .adcAN _ | .subR _ | .subHl | .subN _ | .sbcAR _ | .sbcAHl
  | .sbcAN _ | .andR _ | .andHl | .andN _ | .xorR _ | .xorHl | .xorN _ | .orR _ | .orHl | .orN _ | .cpR _ | .cpHl
  | .cpN _ | .addSpE _ | .ldHlSpE _ | .rlca | .rrca | .rla | .rra | .rlcR _ | .rlcHl | .rrcR _ | .rrcHl | .rlR _
  | .rlHl | .rrR _ | .rrHl | .slaR _ | .slaHl | .sraR _ | .sraHl | .swapR _ | .swapHl | .srlR _ | .srlHl
  | .pop .af => ⟨true, true, true, true⟩
  | .incR _ | .incHl | .decR _ | .decHl | .bitR _ _ | .bitHl _ => ⟨true, true, true, false⟩
  | .daa => ⟨true, false, true, true⟩
  | .cpl => ⟨false, true, true, false⟩
  | .scf | .ccf | .addHlRr _ => ⟨false, true, true, true⟩
  | .incRr _ | .decRr _ | .resR _ _ | .resHl _ | .setR _ _ | .setHl _ | .ldRR _ _ | .ldRHl _ | .ldHlR _ | .ldRN _ _
  | .ldHlN _ | .ldABc | .ldADe | .ldAHli | .ldAHld | .ldBcA | .ldDeA | .ldHliA | .ldHldA | .ldAA16 _ | .ldA16A _
  | .ldhAA8 _ | .ldhA8A _ | .ldhAC | .ldhCA | .ldRrN _ _ | .ldA16Sp _ | .ldSpHl | .jp _ | .jpCc _ _ | .jpHl | .jr _
  | .jrCc _ _ | .call _ | .callCc _ _ | .ret | .retCc _ | .reti | .rst _ | .push _ | .pop .bc | .pop .de | .pop .hl
  | .nop | .stop _ | .halt | .di | .ei | .prefixCb | .illegalD3 | .illegalDB | .illegalDD | .illegalE3 | .illegalE4
  | .illegalEB | .illegalEC | .illegalED | .illegalF4 | .illegalFC | .illegalFD => ⟨false, false, false, false⟩

/-- Whether an instruction writes SP. -/
def writesSp : Instr → Bool
  | .incRr p | .decRr p | .ldRrN p _ => p == .sp
  | .addSpE _ | .ldSpHl | .call _ | .callCc _ _ | .ret | .retCc _ | .reti | .rst _ | .push _ | .pop _ => true
  | .addAR _ | .addAHl | .addAN _ | .adcAR _ | .adcAHl | .adcAN _ | .subR _ | .subHl | .subN _ | .sbcAR _ | .sbcAHl
  | .sbcAN _ | .andR _ | .andHl | .andN _ | .xorR _ | .xorHl | .xorN _ | .orR _ | .orHl | .orN _ | .cpR _ | .cpHl
  | .cpN _ | .incR _ | .incHl | .decR _ | .decHl | .daa | .cpl | .scf | .ccf | .addHlRr _ | .ldHlSpE _ | .rlca | .rrca
  | .rla | .rra | .rlcR _ | .rlcHl | .rrcR _ | .rrcHl | .rlR _ | .rlHl | .rrR _ | .rrHl | .slaR _ | .slaHl | .sraR _
  | .sraHl | .swapR _ | .swapHl | .srlR _ | .srlHl | .bitR _ _ | .bitHl _ | .resR _ _ | .resHl _ | .setR _ _
  | .setHl _ | .ldRR _ _ | .ldRHl _ | .ldHlR _ | .ldRN _ _ | .ldHlN _ | .ldABc | .ldADe | .ldAHli | .ldAHld | .ldBcA
  | .ldDeA | .ldHliA | .ldHldA | .ldAA16 _ | .ldA16A _ | .ldhAA8 _ | .ldhA8A _ | .ldhAC | .ldhCA | .ldA16Sp _ | .jp _
  | .jpCc _ _ | .jpHl | .jr _ | .jrCc _ _ | .nop | .stop _ | .halt | .di | .ei | .prefixCb | .illegalD3 | .illegalDB
  | .illegalDD | .illegalE3 | .illegalE4 | .illegalEB | .illegalEC | .illegalED | .illegalF4 | .illegalFC
  | .illegalFD => false

/-- The eleven illegal opcodes and their bytes (`47_system.md` R1316). -/
def illegalOpcodes : List (Instr × Byte) :=
  [(.illegalD3, 0xD3), (.illegalDB, 0xDB), (.illegalDD, 0xDD), (.illegalE3, 0xE3), (.illegalE4, 0xE4),
    (.illegalEB, 0xEB), (.illegalEC, 0xEC), (.illegalED, 0xED), (.illegalF4, 0xF4), (.illegalFC, 0xFC),
    (.illegalFD, 0xFD)]

/-- The cycles of an instruction, from the opcode maps (`30_encoding.md` R531, R532): one count, or two by whether the
condition holds. The prefix byte's are those of the instruction its pair is, and an illegal opcode takes none. -/
def instrCycles (f : Flags) : Instr → Nat
  | .addAR _ | .adcAR _ | .subR _ | .sbcAR _ | .andR _ | .xorR _ | .orR _ | .cpR _ | .incR _ | .decR _ | .daa | .cpl
  | .scf | .ccf | .rlca | .rrca | .rla | .rra | .ldRR _ _ | .jpHl | .nop | .stop _ | .halt | .di | .ei => 4
  | .addAHl | .addAN _ | .adcAHl | .adcAN _ | .subHl | .subN _ | .sbcAHl | .sbcAN _ | .andHl | .andN _ | .xorHl
  | .xorN _ | .orHl | .orN _ | .cpHl | .cpN _ | .addHlRr _ | .incRr _ | .decRr _ | .rlcR _ | .rrcR _ | .rlR _ | .rrR _
  | .slaR _ | .sraR _ | .swapR _ | .srlR _ | .bitR _ _ | .resR _ _ | .setR _ _ | .ldRHl _ | .ldHlR _ | .ldRN _ _
  | .ldABc | .ldADe | .ldAHli | .ldAHld | .ldBcA | .ldDeA | .ldHliA | .ldHldA | .ldhAC | .ldhCA | .ldSpHl => 8
  | .incHl | .decHl | .bitHl _ | .ldHlN _ | .ldhAA8 _ | .ldhA8A _ | .ldRrN _ _ | .ldHlSpE _ | .pop _ | .jr _ => 12
  | .addSpE _ | .rlcHl | .rrcHl | .rlHl | .rrHl | .slaHl | .sraHl | .swapHl | .srlHl | .resHl _ | .setHl _ | .ldAA16 _
  | .ldA16A _ | .jp _ | .push _ | .rst _ | .ret | .reti => 16
  | .ldA16Sp _ => 20
  | .call _ => 24
  | .jpCc cc _ => if condHolds cc f then 16 else 12
  | .jrCc cc _ => if condHolds cc f then 12 else 8
  | .callCc cc _ => if condHolds cc f then 24 else 12
  | .retCc cc => if condHolds cc f then 20 else 8
  | .prefixCb | .illegalD3 | .illegalDB | .illegalDD | .illegalE3 | .illegalE4 | .illegalEB | .illegalEC | .illegalED
  | .illegalF4 | .illegalFC | .illegalFD => 0

/-! ### Load -/

/-- The cartridge types: header byte, controller with its latches at reset, RAM, battery (`20_memory.md` R400, R410,
R420, R430, R440, R450). -/
def typeTable : List (Byte × Controller × Bool × Bool) :=
  [(0x00, .romOnly, false, false), (0x08, .romOnly, true, false), (0x09, .romOnly, true, true),
    (0x01, .mbc1 false 1 0 false, false, false), (0x02, .mbc1 false 1 0 false, true, false),
    (0x03, .mbc1 false 1 0 false, true, true), (0x05, .mbc2 false 1, true, false), (0x06, .mbc2 false 1, true, true),
    (0x0F, .mbc3 false 1 0, false, true), (0x10, .mbc3 false 1 0, true, true), (0x11, .mbc3 false 1 0, false, false),
    (0x12, .mbc3 false 1 0, true, false), (0x13, .mbc3 false 1 0, true, true),
    (0x19, .mbc5 false false 1 0, false, false), (0x1A, .mbc5 false false 1 0, true, false),
    (0x1B, .mbc5 false false 1 0, true, true), (0x1C, .mbc5 true false 1 0, false, false),
    (0x1D, .mbc5 true false 1 0, true, false), (0x1E, .mbc5 true false 1 0, true, true)]

/-- The load checks hold, but for the refusal of compatibility mode (`20_memory.md` R403). -/
def LoadArgs.Checked (x : LoadArgs) : Prop :=
  0x150 ≤ x.rom.len ∧ (∃ row ∈ typeTable, row.1 = x.rom.byte 0x147) ∧ x.rom.byte 0x147 ∈ x.supported ∧
    (x.rom.byte 0x148).toNat ≤ 8 ∧ (x.rom.byte 0x149).toNat ≤ 5

/-! ### Machine terms -/

/-- The bytes are this instruction, by the decoder and by the encoder. -/
def Spells (bytes : List Byte) (i : Instr) : Prop := decode bytes = .ok (i, []) ∧ encode i = bytes

/-- The counter bit TAC taps (`60_exceptions.md` R1502). -/
def tapBit (tac : BitVec 3) : Nat :=
  if tac.toNat % 4 = 0 then 9 else if tac.toNat % 4 = 1 then 3 else if tac.toNat % 4 = 2 then 5 else 7

/-- The timer signal (`60_exceptions.md` R1502). -/
def tapSignal (t : Timer) : Bool := t.tac.getLsbD 2 && t.counter.getLsbD (tapBit t.tac)

/-- The machine after the timer becomes `t`: if the signal falls, TIMA counts, and at 0xFF it takes TMA instead and the
timer interrupt is requested (`60_exceptions.md` R1503, R1504). -/
def State.withTimer (s : State) (t : Timer) : State :=
  if tapSignal s.timer = true ∧ tapSignal t = false then
    if t.tima = 0xFF then { s with timer := { t with tima := t.tma }, ifl := s.ifl ||| 0b00100#5 }
    else { s with timer := { t with tima := t.tima + 1 } }
  else { s with timer := t }

/-- An interrupt is enabled and requested (`60_exceptions.md` R1404). -/
def State.Pending (s : State) : Prop := ∃ k, k < 5 ∧ s.ie.getLsbD k = true ∧ s.ifl.getLsbD k = true

/-- Both controllers are of one type (`10_state.md` R192). -/
def sameKind : Controller → Controller → Prop
  | .romOnly, .romOnly => True
  | .mbc1 .., .mbc1 .. => True
  | .mbc2 .., .mbc2 .. => True
  | .mbc3 .., .mbc3 .. => True
  | .mbc5 r .., .mbc5 r' .. => r = r'
  | _, _ => False

/-- The end of an instruction's step: the count of EI's delay, which sets IME when it runs out (`47_system.md` R1300,
R1314). -/
def State.delayed (s : State) : State :=
  { s with
    ime := if s.eiDelay.val = 1 then true else s.ime
    eiDelay := if s.eiDelay.val = 2 then 1 else 0 }

/-- What follows the CPU's part of a step of `n` cycles: the total, the timer, the picture unit, the serial port
(`60_exceptions.md` R1760). -/
def State.devices (s : State) (n : Nat) : State :=
  (({ s with totalCycles := s.totalCycles + n }.timerAdvance n).ppuAdvance n).serialAdvance n

/-- The color index of column `col` of row `row` of the tile at VRAM offset `t`, in VRAM bank 0
(`60_exceptions.md` R1621). -/
def tileIndex (v : Video) (t row col : Nat) : Nat :=
  2 * ((v.vramByte (t + 2 * row + 1)).getLsbD (7 - col)).toNat + ((v.vramByte (t + 2 * row)).getLsbD (7 - col)).toNat

/-- Color `i` of palette `n` of a palette memory: the low 15 bits of a little-endian word (`10_state.md` R137). -/
def paletteEntry (byte : Nat → Byte) (n i : Nat) : Nat :=
  ((byte (8 * n + 2 * i)).toNat + 256 * (byte (8 * n + 2 * i + 1)).toNat) % 32768

/-- A sprite that covers a column with an opaque pixel (`60_exceptions.md` R1627). -/
def Opaque (v : Video) (p : Ppu) (x y : Nat) (o : Sprite) : Prop :=
  o.x.toNat ≤ x + 8 ∧ x < o.x.toNat ∧ v.spriteColor p o x y ≠ 0

end Sys2Proof.Machine
end

