-- ==== Sys2Proof/Certificates/Slice0/Obligations.lean ====
section
/-! DEFINITION. The statements for the provers. Every instruction statement gives the whole next state: what it does not
name keeps the value it had, the bus being as the read or write of the instruction leaves it. `s.stepTo u n c x` is the
state `u` with the registers `x`, pc past an `n`-byte instruction (one less under the HALT bug) and `c` cycles. -/

open Sys2Proof Sys2Proof.Machine

/-! ### 8-bit arithmetic and logic -/

/-- R610-R615: ADD and ADC put the sum in A and write all four flags from the adder of R601. -/
def Obligations.AddAdcResults : Prop :=
  ∀ (s : State) (r : Reg8) (n : Byte),
    (Spells [0x80 + r.field] (.addAR r) ∧
      exec (.addAR r) s = .next (s.stepTo s 1 4 (s.regs.plus (s.reg r) false))) ∧
    (Spells [0x86] .addAHl ∧ Loads .addAHl s s.regs.hl fun b u => s.stepTo u 1 8 (s.regs.plus b false)) ∧
    (Spells [0xC6, n] (.addAN n) ∧ exec (.addAN n) s = .next (s.stepTo s 2 8 (s.regs.plus n false))) ∧
    (Spells [0x88 + r.field] (.adcAR r) ∧
      exec (.adcAR r) s = .next (s.stepTo s 1 4 (s.regs.plus (s.reg r) s.regs.f.c))) ∧
    (Spells [0x8E] .adcAHl ∧ Loads .adcAHl s s.regs.hl fun b u => s.stepTo u 1 8 (s.regs.plus b s.regs.f.c)) ∧
    (Spells [0xCE, n] (.adcAN n) ∧ exec (.adcAN n) s = .next (s.stepTo s 2 8 (s.regs.plus n s.regs.f.c)))

/-- R616-R621, R631-R633: SUB and SBC put the difference in A and write all four flags from the subtractor of R602; CP
writes the flags of the subtraction and leaves A: Z says equal, C says below. -/
def Obligations.SubSbcCpResults : Prop :=
  ∀ (s : State) (r : Reg8) (n : Byte),
    (Spells [0x90 + r.field] (.subR r) ∧
      exec (.subR r) s = .next (s.stepTo s 1 4 (s.regs.minus (s.reg r) false))) ∧
    (Spells [0x96] .subHl ∧ Loads .subHl s s.regs.hl fun b u => s.stepTo u 1 8 (s.regs.minus b false)) ∧
    (Spells [0xD6, n] (.subN n) ∧ exec (.subN n) s = .next (s.stepTo s 2 8 (s.regs.minus n false))) ∧
    (Spells [0x98 + r.field] (.sbcAR r) ∧
      exec (.sbcAR r) s = .next (s.stepTo s 1 4 (s.regs.minus (s.reg r) s.regs.f.c))) ∧
    (Spells [0x9E] .sbcAHl ∧ Loads .sbcAHl s s.regs.hl fun b u => s.stepTo u 1 8 (s.regs.minus b s.regs.f.c)) ∧
    (Spells [0xDE, n] (.sbcAN n) ∧ exec (.sbcAN n) s = .next (s.stepTo s 2 8 (s.regs.minus n s.regs.f.c))) ∧
    (Spells [0xB8 + r.field] (.cpR r) ∧
      exec (.cpR r) s = .next (s.stepTo s 1 4 (s.regs.compared (s.reg r) false))) ∧
    (Spells [0xBE] .cpHl ∧ Loads .cpHl s s.regs.hl fun b u => s.stepTo u 1 8 (s.regs.compared b false)) ∧
    (Spells [0xFE, n] (.cpN n) ∧ exec (.cpN n) s = .next (s.stepTo s 2 8 (s.regs.compared n false))) ∧
    ((s.regs.compared n false).f.z = true ↔ s.regs.a = n) ∧
    ((s.regs.compared n false).f.c = true ↔ s.regs.a.toNat < n.toNat)

/-- R622-R630: AND, XOR and OR put the bitwise result in A; Z is from it, N and C are 0, H is 1 for AND only. -/
def Obligations.AndXorOrResults : Prop :=
  ∀ (s : State) (r : Reg8) (n : Byte),
    (Spells [0xA0 + r.field] (.andR r) ∧
      exec (.andR r) s = .next (s.stepTo s 1 4 (s.regs.logic (s.regs.a &&& s.reg r) true))) ∧
    (Spells [0xA6] .andHl ∧ Loads .andHl s s.regs.hl fun b u => s.stepTo u 1 8 (s.regs.logic (s.regs.a &&& b) true)) ∧
    (Spells [0xE6, n] (.andN n) ∧ exec (.andN n) s = .next (s.stepTo s 2 8 (s.regs.logic (s.regs.a &&& n) true))) ∧
    (Spells [0xA8 + r.field] (.xorR r) ∧
      exec (.xorR r) s = .next (s.stepTo s 1 4 (s.regs.logic (s.regs.a ^^^ s.reg r) false))) ∧
    (Spells [0xAE] .xorHl ∧ Loads .xorHl s s.regs.hl fun b u => s.stepTo u 1 8 (s.regs.logic (s.regs.a ^^^ b) false)) ∧
    (Spells [0xEE, n] (.xorN n) ∧ exec (.xorN n) s = .next (s.stepTo s 2 8 (s.regs.logic (s.regs.a ^^^ n) false))) ∧
    (Spells [0xB0 + r.field] (.orR r) ∧
      exec (.orR r) s = .next (s.stepTo s 1 4 (s.regs.logic (s.regs.a ||| s.reg r) false))) ∧
    (Spells [0xB6] .orHl ∧ Loads .orHl s s.regs.hl fun b u => s.stepTo u 1 8 (s.regs.logic (s.regs.a ||| b) false)) ∧
    (Spells [0xF6, n] (.orN n) ∧ exec (.orN n) s = .next (s.stepTo s 2 8 (s.regs.logic (s.regs.a ||| n) false)))

/-- R640-R643: INC and DEC of a register or of the byte at HL, the read before the write; Z, N and H are written and C
is kept. -/
def Obligations.IncDecByteResults : Prop :=
  ∀ (s : State) (r : Reg8),
    (Spells [0x04 + 8 * r.field] (.incR r) ∧
      exec (.incR r) s = .next (s.stepTo s 1 4
        { s.regs.set r (s.reg r + 1) with
          f := { z := (s.reg r).toNat == 255, n := false, h := (s.reg r).toNat % 16 == 15, c := s.regs.f.c } })) ∧
    (Spells [0x34] .incHl ∧ Modifies .incHl s s.regs.hl (fun v => v + 1) fun v w => s.stepTo w 1 12
      { s.regs with f := { z := v.toNat == 255, n := false, h := v.toNat % 16 == 15, c := s.regs.f.c } }) ∧
    (Spells [0x05 + 8 * r.field] (.decR r) ∧
      exec (.decR r) s = .next (s.stepTo s 1 4
        { s.regs.set r (s.reg r - 1) with
          f := { z := (s.reg r).toNat == 1, n := true, h := (s.reg r).toNat % 16 == 0, c := s.regs.f.c } })) ∧
    (Spells [0x35] .decHl ∧ Modifies .decHl s s.regs.hl (fun v => v - 1) fun v w => s.stepTo w 1 12
      { s.regs with f := { z := v.toNat == 1, n := true, h := v.toNat % 16 == 0, c := s.regs.f.c } })

/-- R650-R653: DAA, CPL, SCF and CCF on A and the flags each names. DAA's two adjustments are written as numbers. -/
def Obligations.DaaCplScfCcfResults : Prop :=
  ∀ s : State,
    (Spells [0x27] .daa ∧
      let f := s.regs.f
      let n := s.regs.a.toNat
      let big := f.c = true ∨ (f.n = false ∧ 0x99 < n)
      let low := f.h = true ∨ (f.n = false ∧ 9 < n % 16)
      let adjust := (if big then 0x60 else 0) + if low then 6 else 0
      let r := if f.n = true then (512 + n - adjust) % 256 else (n + adjust) % 256
      exec .daa s = .next (s.stepTo s 1 4
        { s.regs with a := BitVec.ofNat 8 r, f := { z := r == 0, n := f.n, h := false, c := decide big } })) ∧
    (Spells [0x2F] .cpl ∧
      exec .cpl s = .next (s.stepTo s 1 4
        { s.regs with a := ~~~s.regs.a, f := { z := s.regs.f.z, n := true, h := true, c := s.regs.f.c } })) ∧
    (Spells [0x37] .scf ∧
      exec .scf s = .next (s.stepTo s 1 4
        { s.regs with f := { z := s.regs.f.z, n := false, h := false, c := true } })) ∧
    (Spells [0x3F] .ccf ∧
      exec .ccf s = .next (s.stepTo s 1 4
        { s.regs with f := { z := s.regs.f.z, n := false, h := false, c := !s.regs.f.c } }))

/-! ### 16-bit arithmetic -/

/-- R710-R714: ADD HL,rr keeps Z; INC rr and DEC rr write no flag; ADD SP,e8 and LD HL,SP+e8 add a signed byte and take
their flags from the unsigned low-byte sum (R700). -/
def Obligations.WordArithmeticResults : Prop :=
  ∀ (s : State) (p : Reg16) (e : Byte),
    (Spells [0x09 + 16 * p.field] (.addHlRr p) ∧
      let a := s.regs.hl.toNat
      let b := (s.pair p).toNat
      let t := BitVec.ofNat 16 (a + b)
      exec (.addHlRr p) s = .next (s.stepTo s 1 8
        { s.regs with
          h := hi8 t
          l := lo8 t
          f := { z := s.regs.f.z, n := false, h := decide (0xFFF < a % 4096 + b % 4096),
                 c := decide (0xFFFF < a + b) } })) ∧
    (∀ (w : Word), (s.setPair p w).pair p = w ∧ ∀ q, q ≠ p → (s.setPair p w).pair q = s.pair q) ∧
    (Spells [0x03 + 16 * p.field] (.incRr p) ∧
      exec (.incRr p) s = .next (s.stepTo (s.setPair p (s.pair p + 1)) 1 8 (s.setPair p (s.pair p + 1)).regs)) ∧
    (Spells [0x0B + 16 * p.field] (.decRr p) ∧
      exec (.decRr p) s = .next (s.stepTo (s.setPair p (s.pair p - 1)) 1 8 (s.setPair p (s.pair p - 1)).regs)) ∧
    (let t := BitVec.ofInt 16 (s.sp.toNat + e.toInt)
     let f : Flags := { z := false, n := false, h := decide (15 < s.sp.toNat % 16 + e.toNat % 16),
                        c := decide (255 < s.sp.toNat % 256 + e.toNat) }
     (Spells [0xE8, e] (.addSpE e) ∧
       exec (.addSpE e) s = .next (s.stepTo { s with sp := t } 2 16 { s.regs with f := f })) ∧
     (Spells [0xF8, e] (.ldHlSpE e) ∧
       exec (.ldHlSpE e) s = .next (s.stepTo s 2 12 { s.regs with h := hi8 t, l := lo8 t, f := f })))

/-! ### Rotates, shifts, bits -/

/-- R810-R813, R820, R822, ..., R834: the four rotates of A, which always clear Z, and the eight prefixed shifts of a
register, Z from the result; N and H are 0 and C is the bit shifted out. -/
def Obligations.RotateShiftRegisterResults : Prop :=
  ∀ (s : State) (r : Reg8),
    (∀ x ∈ [(Instr.rlca, (0x07 : Byte), ShiftOp.rlc), (.rrca, 0x0F, .rrc), (.rla, 0x17, .rl), (.rra, 0x1F, .rr)],
      Spells [x.2.1] x.1 ∧
        let t := shifted x.2.2 s.regs.a s.regs.f.c
        exec x.1 s = .next (s.stepTo s 1 4
          { s.regs with a := BitVec.ofNat 8 t.1, f := { z := false, n := false, h := false, c := t.2 } })) ∧
    ∀ x ∈ [(Instr.rlcR r, (0x00 : Byte), ShiftOp.rlc), (.rrcR r, 0x08, .rrc), (.rlR r, 0x10, .rl),
      (.rrR r, 0x18, .rr), (.slaR r, 0x20, .sla), (.sraR r, 0x28, .sra), (.swapR r, 0x30, .swap), (.srlR r, 0x38, .srl)],
    Spells [0xCB, x.2.1 + r.field] x.1 ∧ exec x.1 s = .next (s.stepTo s 2 8 (s.regs.shift x.2.2 r))

/-- R821, R823, ..., R835: the eight prefixed shifts of the byte at HL, read then written back. -/
def Obligations.ShiftMemoryResults : Prop :=
  ∀ s : State, ∀ x ∈ [(Instr.rlcHl, (0x06 : Byte), ShiftOp.rlc), (.rrcHl, 0x0E, .rrc), (.rlHl, 0x16, .rl),
      (.rrHl, 0x1E, .rr), (.slaHl, 0x26, .sla), (.sraHl, 0x2E, .sra), (.swapHl, 0x36, .swap), (.srlHl, 0x3E, .srl)],
    Spells [0xCB, x.2.1] x.1 ∧
      Modifies x.1 s s.regs.hl (fun v => BitVec.ofNat 8 (shifted x.2.2 v s.regs.f.c).1) fun v w =>
        let t := shifted x.2.2 v s.regs.f.c
        s.stepTo w 2 16 { s.regs with f := { z := t.1 == 0, n := false, h := false, c := t.2 } }

/-- R910-R915: BIT tests a bit and writes Z, N and H only; RES and SET write one bit and no flag. -/
def Obligations.BitResSetResults : Prop :=
  ∀ (s : State) (k : BitVec 3) (r : Reg8),
    let kb := 8 * BitVec.ofNat 8 k.toNat
    let tested (v : Byte) : Regs :=
      { s.regs with f := { z := v.toNat / 2 ^ k.toNat % 2 == 0, n := false, h := true, c := s.regs.f.c } }
    let with1 (v : Byte) : Byte := v ||| BitVec.ofNat 8 (2 ^ k.toNat)
    let with0 (v : Byte) : Byte := v &&& BitVec.ofNat 8 (255 - 2 ^ k.toNat)
    (Spells [0xCB, 0x40 + kb + r.field] (.bitR k r) ∧ exec (.bitR k r) s = .next (s.stepTo s 2 8 (tested (s.reg r)))) ∧
    (Spells [0xCB, 0x46 + kb] (.bitHl k) ∧ Loads (.bitHl k) s s.regs.hl fun v u => s.stepTo u 2 12 (tested v)) ∧
    (Spells [0xCB, 0x80 + kb + r.field] (.resR k r) ∧
      exec (.resR k r) s = .next (s.stepTo s 2 8 (s.regs.set r (with0 (s.reg r))))) ∧
    (Spells [0xCB, 0x86 + kb] (.resHl k) ∧
      Modifies (.resHl k) s s.regs.hl with0 fun _ w => s.stepTo w 2 16 s.regs) ∧
    (Spells [0xCB, 0xC0 + kb + r.field] (.setR k r) ∧
      exec (.setR k r) s = .next (s.stepTo s 2 8 (s.regs.set r (with1 (s.reg r))))) ∧
    (Spells [0xCB, 0xC6 + kb] (.setHl k) ∧
      Modifies (.setHl k) s s.regs.hl with1 fun _ w => s.stepTo w 2 16 s.regs)

/-! ### Loads -/

/-- R1010, R1013, R1040, R1042: loads between registers and from immediates; no flag is written. -/
def Obligations.RegisterLoadResults : Prop :=
  ∀ (s : State) (dst src : Reg8) (p : Reg16) (n lo hi : Byte),
    (Spells [0x40 + 8 * dst.field + src.field] (.ldRR dst src) ∧
      exec (.ldRR dst src) s = .next (s.stepTo s 1 4 (s.regs.set dst (s.reg src)))) ∧
    (Spells [0x06 + 8 * dst.field, n] (.ldRN dst n) ∧
      exec (.ldRN dst n) s = .next (s.stepTo s 2 8 (s.regs.set dst n))) ∧
    (Spells [0x01 + 16 * p.field, lo, hi] (.ldRrN p (hi ++ lo)) ∧
      exec (.ldRrN p (hi ++ lo)) s =
        .next (s.stepTo (s.setPair p (hi ++ lo)) 3 12 (s.setPair p (hi ++ lo)).regs)) ∧
    (Spells [0xF9] .ldSpHl ∧ exec .ldSpHl s = .next (s.stepTo { s with sp := s.regs.hl } 1 8 s.regs))

/-- R1011, R1020-R1023, R1030, R1032, R1034: loads of a register from memory; HL+ and HL- also move HL; no flag is
written. -/
def Obligations.MemoryLoadResults : Prop :=
  ∀ (s : State) (dst : Reg8) (n lo hi : Byte),
    let toA (v : Byte) : Regs := { s.regs with a := v }
    let up := s.regs.hl + 1
    let down := s.regs.hl - 1
    (Spells [0x46 + 8 * dst.field] (.ldRHl dst) ∧
      Loads (.ldRHl dst) s s.regs.hl fun v u => s.stepTo u 1 8 (s.regs.set dst v)) ∧
    (Spells [0x0A] .ldABc ∧ Loads .ldABc s s.regs.bc fun v u => s.stepTo u 1 8 (toA v)) ∧
    (Spells [0x1A] .ldADe ∧ Loads .ldADe s s.regs.de fun v u => s.stepTo u 1 8 (toA v)) ∧
    (Spells [0x2A] .ldAHli ∧
      Loads .ldAHli s s.regs.hl fun v u => s.stepTo u 1 8 { toA v with h := hi8 up, l := lo8 up }) ∧
    (Spells [0x3A] .ldAHld ∧
      Loads .ldAHld s s.regs.hl fun v u => s.stepTo u 1 8 { toA v with h := hi8 down, l := lo8 down }) ∧
    (Spells [0xFA, lo, hi] (.ldAA16 (hi ++ lo)) ∧
      Loads (.ldAA16 (hi ++ lo)) s (hi ++ lo) fun v u => s.stepTo u 3 16 (toA v)) ∧
    (Spells [0xF0, n] (.ldhAA8 n) ∧ Loads (.ldhAA8 n) s (0xFF#8 ++ n) fun v u => s.stepTo u 2 12 (toA v)) ∧
    (Spells [0xF2] .ldhAC ∧ Loads .ldhAC s (0xFF#8 ++ s.regs.c) fun v u => s.stepTo u 1 8 (toA v))

/-- R1012, R1014, R1024-R1027, R1031, R1033, R1035, R1041: the stores of a register or an immediate, SP low byte first;
HL+ and HL- also move HL; no flag is written. -/
def Obligations.StoreResults : Prop :=
  ∀ (s : State) (src : Reg8) (n lo hi : Byte),
    let up := s.regs.hl + 1
    let down := s.regs.hl - 1
    (Spells [0x70 + src.field] (.ldHlR src) ∧
      StoresByte (.ldHlR src) s s.regs.hl (s.reg src) fun u => s.stepTo u 1 8 s.regs) ∧
    (Spells [0x36, n] (.ldHlN n) ∧ StoresByte (.ldHlN n) s s.regs.hl n fun u => s.stepTo u 2 12 s.regs) ∧
    (Spells [0x02] .ldBcA ∧ StoresByte .ldBcA s s.regs.bc s.regs.a fun u => s.stepTo u 1 8 s.regs) ∧
    (Spells [0x12] .ldDeA ∧ StoresByte .ldDeA s s.regs.de s.regs.a fun u => s.stepTo u 1 8 s.regs) ∧
    (Spells [0x22] .ldHliA ∧
      StoresByte .ldHliA s s.regs.hl s.regs.a fun u => s.stepTo u 1 8 { s.regs with h := hi8 up, l := lo8 up }) ∧
    (Spells [0x32] .ldHldA ∧
      StoresByte .ldHldA s s.regs.hl s.regs.a fun u => s.stepTo u 1 8 { s.regs with h := hi8 down, l := lo8 down }) ∧
    (Spells [0xEA, lo, hi] (.ldA16A (hi ++ lo)) ∧
      StoresByte (.ldA16A (hi ++ lo)) s (hi ++ lo) s.regs.a fun u => s.stepTo u 3 16 s.regs) ∧
    (Spells [0xE0, n] (.ldhA8A n) ∧
      StoresByte (.ldhA8A n) s (0xFF#8 ++ n) s.regs.a fun u => s.stepTo u 2 12 s.regs) ∧
    (Spells [0xE2] .ldhCA ∧
      StoresByte .ldhCA s (0xFF#8 ++ s.regs.c) s.regs.a fun u => s.stepTo u 1 8 s.regs) ∧
    (Spells [0x08, lo, hi] (.ldA16Sp (hi ++ lo)) ∧
      StoresTwo (.ldA16Sp (hi ++ lo)) s (hi ++ lo) (lo8 s.sp) (hi ++ lo + 1) (hi8 s.sp) fun w =>
        s.stepTo w 3 20 s.regs)

/-! ### Control transfers -/

/-- R1110-R1114: the jumps; a relative target is counted from the next instruction; a condition that fails costs less
and falls through. -/
def Obligations.JumpResults : Prop :=
  ∀ (s : State) (cc : Cond) (lo hi e : Byte),
    let nn := hi ++ lo
    let rel := BitVec.ofInt 16 ((s.nextPc 2).toNat + e.toInt)
    let taken : Prop :=
      match cc with
      | .nz => s.regs.f.z = false
      | .z => s.regs.f.z = true
      | .nc => s.regs.f.c = false
      | .c => s.regs.f.c = true
    (Spells [0xC3, lo, hi] (.jp nn) ∧ exec (.jp nn) s = .next { s.stepTo s 3 16 s.regs with pc := nn }) ∧
    (Spells [0xC2 + 8 * cc.field, lo, hi] (.jpCc cc nn) ∧
      (taken → exec (.jpCc cc nn) s = .next { s.stepTo s 3 16 s.regs with pc := nn }) ∧
      (¬taken → exec (.jpCc cc nn) s = .next (s.stepTo s 3 12 s.regs))) ∧
    (Spells [0xE9] .jpHl ∧ exec .jpHl s = .next { s.stepTo s 1 4 s.regs with pc := s.regs.hl }) ∧
    (Spells [0x18, e] (.jr e) ∧ exec (.jr e) s = .next { s.stepTo s 2 12 s.regs with pc := rel }) ∧
    (Spells [0x20 + 8 * cc.field, e] (.jrCc cc e) ∧
      (taken → exec (.jrCc cc e) s = .next { s.stepTo s 2 12 s.regs with pc := rel }) ∧
      (¬taken → exec (.jrCc cc e) s = .next (s.stepTo s 2 8 s.regs)))

/-- R1115, R1116, R1120: a call or restart pushes the address of the next instruction and jumps; a condition that fails
pushes nothing. -/
def Obligations.CallRstResults : Prop :=
  ∀ (s : State) (cc : Cond) (t : BitVec 3) (lo hi : Byte),
    let nn := hi ++ lo
    let taken : Prop :=
      match cc with
      | .nz => s.regs.f.z = false
      | .z => s.regs.f.z = true
      | .nc => s.regs.f.c = false
      | .c => s.regs.f.c = true
    (Spells [0xCD, lo, hi] (.call nn) ∧
      Pushes (.call nn) s (s.nextPc 3) fun w => { s.stepTo w 3 24 s.regs with pc := nn }) ∧
    (Spells [0xC4 + 8 * cc.field, lo, hi] (.callCc cc nn) ∧
      (taken → Pushes (.callCc cc nn) s (s.nextPc 3) fun w => { s.stepTo w 3 24 s.regs with pc := nn }) ∧
      (¬taken → exec (.callCc cc nn) s = .next (s.stepTo s 3 12 s.regs))) ∧
    (Spells [0xC7 + 8 * BitVec.ofNat 8 t.toNat] (.rst t) ∧
      Pushes (.rst t) s (s.nextPc 1) fun w => { s.stepTo w 1 16 s.regs with pc := BitVec.ofNat 16 (8 * t.toNat) })

/-- R1117-R1119: a return pops pc; a condition that fails pops nothing; RETI also sets IME at once and leaves the delay
of EI. -/
def Obligations.ReturnResults : Prop :=
  ∀ (s : State) (cc : Cond),
    let taken : Prop :=
      match cc with
      | .nz => s.regs.f.z = false
      | .z => s.regs.f.z = true
      | .nc => s.regs.f.c = false
      | .c => s.regs.f.c = true
    (Spells [0xC9] .ret ∧ Pops .ret s fun v w => { s.stepTo w 1 16 s.regs with pc := v }) ∧
    (Spells [0xC0 + 8 * cc.field] (.retCc cc) ∧
      (taken → Pops (.retCc cc) s fun v w => { s.stepTo w 1 20 s.regs with pc := v }) ∧
      (¬taken → exec (.retCc cc) s = .next (s.stepTo s 1 8 s.regs))) ∧
    (Spells [0xD9] .reti ∧ Pops .reti s fun v w => { s.stepTo w 1 16 s.regs with pc := v, ime := true })

/-- R1210, R1211: PUSH and POP of each pair; POP AF keeps only bits 7-4 of F, PUSH AF pushes them with zeros below. -/
def Obligations.PushPopResults : Prop :=
  ∀ (s : State) (q : Reg16Stk),
    let high (x : Regs) : Byte := match q with | .bc => x.b | .de => x.d | .hl => x.h | .af => x.a
    let low (x : Regs) : Byte :=
      match q with
      | .bc => x.c
      | .de => x.e
      | .hl => x.l
      | .af => BitVec.ofNat 8 (128 * x.f.z.toNat + 64 * x.f.n.toNat + 32 * x.f.h.toNat + 16 * x.f.c.toNat)
    let loaded (v : Word) : Regs :=
      match q with
      | .bc => { s.regs with b := hi8 v, c := lo8 v }
      | .de => { s.regs with d := hi8 v, e := lo8 v }
      | .hl => { s.regs with h := hi8 v, l := lo8 v }
      | .af =>
        { s.regs with
          a := hi8 v
          f := { z := v.getLsbD 7, n := v.getLsbD 6, h := v.getLsbD 5, c := v.getLsbD 4 } }
    (Spells [0xC5 + 16 * q.field] (.push q) ∧
      Pushes (.push q) s (high s.regs ++ low s.regs) fun w => s.stepTo w 1 16 s.regs) ∧
    (Spells [0xC1 + 16 * q.field] (.pop q) ∧ Pops (.pop q) s fun v w => s.stepTo w 1 12 (loaded v))

/-! ### System instructions -/

/-- R1310, R1313: NOP only advances pc; DI clears IME and the delay of EI. And EI's own part: it starts the delay unless
one runs. -/
def Obligations.NopDiEiResults : Prop :=
  ∀ s : State,
    (Spells [0x00] .nop ∧ exec .nop s = .next (s.stepTo s 1 4 s.regs)) ∧
    (Spells [0xF3] .di ∧ exec .di s = .next (s.stepTo { s with ime := false, eiDelay := 0 } 1 4 s.regs)) ∧
    (Spells [0xFB] .ei ∧
      exec .ei s = .next (s.stepTo { s with eiDelay := if s.eiDelay.val = 0 then 2 else s.eiDelay } 1 4 s.regs))

/-- R1311, R1312, R1416, R1782, R1792: STOP resets the divider and stops the CPU, whatever its second byte; a stopped step
takes no cycle and changes nothing, the serial port among what stands still (log 13); the host's wake ends the stop. HALT
halts the CPU, or, with IME off and an interrupt pending, arms the HALT bug, under which the next opcode and the byte after
it are both read at pc and the return address of a dispatch is the HALT's; a halted step takes 4 cycles, the halt ending
when an enabled interrupt is requested. -/
def Obligations.StopHaltResults : Prop :=
  ∀ (s : State) (x : Byte),
    (Spells [0x10, x] (.stop x) ∧
      exec (.stop x) s =
        .next { s.stepTo (s.withTimer { s.timer with counter := 0 }) 2 4 s.regs with stopped := true }) ∧
    (Spells [0x76] .halt ∧
      (s.ime = false ∧ s.Pending → exec .halt s = .next { s.stepTo s 1 4 s.regs with haltBug := true }) ∧
      (¬(s.ime = false ∧ s.Pending) → exec .halt s = .next { s.stepTo s 1 4 s.regs with halted := true })) ∧
    (s.Live → s.stopped = true → step s = .next { s with cycles := 0 }) ∧
    (s.Live → s.stopped = false → s.halted = true →
      (s.Pending → step s = .next ({ s with halted := false, cycles := 4 }.devices 4)) ∧
      (¬s.Pending → step s = .next ({ s with cycles := 4 }.devices 4))) ∧
    (s.haltBug = true →
      s.fetchAddr 0 = s.pc ∧ s.fetchAddr 1 = s.pc ∧ s.nextPc 1 = s.pc ∧ s.nextPc 2 = s.pc + 1 ∧ s.returnAddr = s.pc - 1) ∧
    s.wake = { s with stopped := false }

/-- R1315: the prefix byte makes the step fetch one more byte and run the instruction that byte names in the secondary
space, which every byte does and none of which faults; and a prefixed shift of a register completes so. -/
def Obligations.PrefixRunsSecondary : Prop :=
  ∀ (s u : State) (b : Byte), s.read s.operandAddr = .ok (b, u) →
    (∃ i, decode [0xCB, b] = .ok (i, []) ∧ i.wellFormed = true) ∧
    (∃ t, exec .prefixCb s = .next t ∧ t.fatal = s.fatal) ∧
    (∀ i t, decode [0xCB, b] = .ok (i, []) → exec i u = .next t →
      (t.refused = none → exec .prefixCb s = .next t) ∧
        (s.refused = none → t.refused ≠ none → exec .prefixCb s = .next { s with refused := t.refused })) ∧
    (∀ r : Reg8, ∀ x ∈ [((0x00 : Byte), ShiftOp.rlc), (0x08, .rrc), (0x10, .rl), (0x18, .rr), (0x20, .sla),
        (0x28, .sra), (0x30, .swap), (0x38, .srl)],
      b = x.1 + r.field → exec .prefixCb s = .next (s.stepTo u 2 8 (s.regs.shift x.2 r)))

/-- R1316: each of the eleven illegal opcodes, and no other, raises the fault with its byte and its address; nothing else
of the step is committed, and no later step is taken. -/
def Obligations.IllegalOpcodesFault : Prop :=
  (∀ (op b2 b3 : Byte) (i : Instr), (i, op) ∈ illegalOpcodes ↔ decodeBytes op b2 b3 = i ∧ i ∈ illegalOpcodes.map Prod.fst) ∧
    ∀ (s : State), ∀ x ∈ illegalOpcodes,
      Spells [x.2] x.1 ∧
        exec x.1 s = .next { s with fatal := some (.illegalOpcode x.2 s.pc) } ∧
        (s.Live → s.Executes → s.peek s.pc = .byte x.2 →
          step s = .next { s with fatal := some (.illegalOpcode x.2 s.pc) }) ∧
        step { s with fatal := some (.illegalOpcode x.2 s.pc) } = .fault (.executionFatal (.illegalOpcode x.2 s.pc))

/-! ### Frames over all instructions -/

/-- The register frame: an instruction leaves every 8-bit register but its destinations, every flag it is not said to
write, and SP unless it moves it; only DI and RETI write IME at once, only DI and EI the delay, only HALT enters the halt
or arms the bug, only STOP stops. The prefix byte is left out: it is the instruction its second byte names. -/
def Obligations.RegisterFrame : Prop :=
  ∀ (i : Instr) (s t : State), i ≠ .prefixCb → exec i s = .next t →
    (∀ r, r ∉ regDests i → t.reg r = s.reg r) ∧
      ((flagDests i).z = false → t.regs.f.z = s.regs.f.z) ∧
      ((flagDests i).n = false → t.regs.f.n = s.regs.f.n) ∧
      ((flagDests i).h = false → t.regs.f.h = s.regs.f.h) ∧
      ((flagDests i).c = false → t.regs.f.c = s.regs.f.c) ∧
      (writesSp i = false → t.sp = s.sp) ∧
      (i ≠ .di → i ≠ .reti → t.ime = s.ime) ∧
      (i ≠ .di → i ≠ .ei → t.eiDelay = s.eiDelay) ∧
      (i ≠ .halt → t.halted = s.halted ∧ (t.haltBug = true → s.haltBug = true)) ∧
      ((∀ x, i ≠ .stop x) → t.stopped = s.stopped) ∧
      t.totalCycles = s.totalCycles

/-- The memory frame: an instruction that stores nothing leaves the whole bus as it was, STOP's divider apart; one that
stores only to plain RAM leaves every address that reaches another byte reading as before. The addresses stored to are
those `State.stores` computes. -/
def Obligations.MemoryFrame : Prop :=
  ∀ (i : Instr) (s t : State), exec i s = .next t → (∀ x, i ≠ .stop x) →
    (s.stores i = [] → s.SameBus t) ∧
      ((∀ a ∈ s.stores i, s.PlainRam (s.target a)) →
        ∀ b, (∀ a ∈ s.stores i, s.target b ≠ s.target a) → t.peek b = s.peek b)

/-- R131, R133, R315, R321: work RAM lies at 0xC000-0xDFFF, in DMG mode bank 0 and then bank 1, in either mode high RAM at
0xFF80-0xFFFE and IE at 0xFFFF, and all of these are plain RAM. A write to plain RAM is read back, every address that
reaches another byte reads as before, and nothing but the contents of the memories and IE changes. -/
def Obligations.RamWriteReadsBack : Prop :=
  (∀ (s : State) (a : Word),
    (s.cfg.cgbMode = false →
      (0xC000 ≤ a.toNat → a.toNat ≤ 0xCFFF → s.target a = .wram (a.toNat - 0xC000)) ∧
        (0xD000 ≤ a.toNat → a.toNat ≤ 0xDFFF → s.target a = .wram (0x1000 + (a.toNat - 0xD000)))) ∧
      (0xFF80 ≤ a.toNat → a.toNat ≤ 0xFFFE → s.target a = .hram (a.toNat - 0xFF80)) ∧
      (a.toNat = 0xFFFF → s.target a = .ie) ∧
      ((0xC000 ≤ a.toNat ∧ a.toNat ≤ 0xDFFF) ∨ 0xFF80 ≤ a.toNat → s.PlainRam (s.target a))) ∧
  ∀ (s : State) (a : Word) (v : Byte), s.PlainRam (s.target a) →
    ∃ u, s.write a v = .ok u ∧ u.peek a = .byte v ∧ (∀ b, s.target b ≠ s.target a → u.peek b = s.peek b) ∧
      u = { s with
        vram := u.vram, wram := u.wram, oam := u.oam, hram := u.hram, ie := u.ie, cart := { s.cart with ram := u.cart.ram } }

/-- R142: no read has a side effect. A read gives the byte the routing says, or, for the two draws of the spec, a free
value that only the model's own draw counter remembers (log 4). And R158: an audio register reads a draw, and a write of
one does nothing. -/
def Obligations.ReadsHaveNoSideEffect : Prop :=
  ∀ (s : State) (a : Word),
    (∀ b, s.peek a = .byte b → s.read a = .ok (b, s)) ∧
      (∀ b u, s.read a = .ok (b, u) → u = { s with draws := u.draws } ∧ ∀ c, u.peek c = s.peek c) ∧
      ((0xFF10 ≤ a.toNat ∧ a.toNat ≤ 0xFF26) ∨ (0xFF30 ≤ a.toNat ∧ a.toNat ≤ 0xFF3F) →
        s.peek a = .draw ∧ (∃ b, s.read a = .ok (b, { s with draws := s.draws + 1 })) ∧ ∀ v, s.write a v = .ok s)

/-! ### Encoding -/

/-- Decoding the encoding of a complete instruction gives it back, whatever follows it. -/
def Obligations.DecodeOfEncode : Prop :=
  ∀ (i : Instr) (rest : List Byte), i.wellFormed = true → decode (encode i ++ rest) = .ok (i, rest)

/-- What decodes to a complete instruction begins with its encoding. -/
def Obligations.EncodeOfDecode : Prop :=
  ∀ (bytes rest : List Byte) (i : Instr), decode bytes = .ok (i, rest) → i.wellFormed = true → bytes = encode i ++ rest

/-- A few words written out from the opcode maps of `30_encoding.md` R530 and R532, one of each family. -/
def Obligations.WordsOfTheMaps : Prop :=
  decode [0x8B] = .ok (.adcAR .e, []) ∧ decode [0x39] = .ok (.addHlRr .sp, []) ∧
    decode [0xCB, 0x1F] = .ok (.rrR .a, []) ∧ decode [0xCB, 0x7C] = .ok (.bitR 7 .h, []) ∧
    decode [0x6E] = .ok (.ldRHl .l, []) ∧ decode [0x08, 0x00, 0xC1] = .ok (.ldA16Sp 0xC100, []) ∧
    decode [0xDC, 0x34, 0x12] = .ok (.callCc .c 0x1234, []) ∧ decode [0xF1] = .ok (.pop .af, []) ∧
    decode [0x76] = .ok (.halt, []) ∧ decode [0xD3] = .ok (.illegalD3, [])

/-! ### The step -/

/-- A step runs the decoded instruction: when the bytes at the program counter are a complete instruction, the step is
`exec` of it, then the delay of EI, then the timer, the picture unit and the serial port; a mark commits alone. -/
def Obligations.StepRunsDecoded : Prop :=
  ∀ (s : State) (i : Instr) (bytes : List Byte), s.Live → s.Executes → decode bytes = .ok (i, []) → i.wellFormed = true →
    (∀ k, k < bytes.length → s.peek (s.fetchAddr k) = .byte (bytes.getD k 0)) →
    ∀ t, exec i s = .next t →
      (t.fatal = none → t.refused = none → step s = .next (t.delayed.devices t.cycles)) ∧
        (t.fatal ≠ none ∨ t.refused ≠ none → step s = .next { s with fatal := t.fatal, refused := t.refused })

/-- R1411: with IME set and an interrupt pending, a step that is neither halted nor stopped takes the lowest one: its
flag and IME are cleared, the address of the next instruction is pushed (the HALT's own under the HALT bug), pc is the
vector, 20 cycles pass. A push that reaches a refused register commits the refusal alone. -/
def Obligations.DispatchTakesLowest : Prop :=
  ∀ (s : State) (k : Nat), s.Live → s.stopped = false → s.halted = false → s.ime = true →
    k < 5 → s.ie.getLsbD k = true → s.ifl.getLsbD k = true →
    (∀ j, j < k → ¬(s.ie.getLsbD j = true ∧ s.ifl.getLsbD j = true)) →
    let ret := if s.haltBug then s.pc - 1 else s.pc
    let taken := { s with ifl := s.ifl &&& ~~~(1#5 <<< k), ime := false, eiDelay := 0, haltBug := false }
    (∀ u w, taken.write (s.sp - 1) (hi8 ret) = .ok u → u.write (s.sp - 2) (lo8 ret) = .ok w →
      step s = .next ({ w with sp := s.sp - 2, pc := BitVec.ofNat 16 (0x40 + 8 * k), cycles := 20 }.devices 20)) ∧
    (∀ e, taken.write (s.sp - 1) (hi8 ret) = .error e → step s = .next { s with refused := some e }) ∧
    ∀ u e, taken.write (s.sp - 1) (hi8 ret) = .ok u → u.write (s.sp - 2) (lo8 ret) = .error e →
      step s = .next { s with refused := some e }

/-- R1430, R1435: every refusal of the spec, and that it commits nothing else; no step is taken after one. -/
def Obligations.RefusalsCommitNothingElse : Prop :=
  (∀ (s : State) (v : Byte), s.cfg.cgbMode = true → v.getLsbD 0 = true → s.write 0xFF4D v = .error .speedSwitch) ∧
    (∀ (s : State) (v : Byte), s.cfg.cgbMode = true → s.write 0xFF55 v = .error .vramDma) ∧
    (∀ (s : State) (v : Byte), 0xE0 ≤ v.toNat → s.write 0xFF46 v = .error .oamDmaSource) ∧
    (∀ (s : State) (a : Word) (v : Byte) (romb : BitVec 7) (ramb : BitVec 8), s.cart.ctrl = .mbc3 true romb ramb →
      8 ≤ ramb.toNat → ramb.toNat ≤ 0x0C → 0xA000 ≤ a.toNat → a.toNat ≤ 0xBFFF →
      s.read a = .error .mbc3Clock ∧ s.write a v = .error .mbc3Clock) ∧
    (∀ x : LoadArgs, x.hw = .cgb → (x.rom.byte 0x143).getLsbD 7 = false → ∀ s, load x ≠ .ok s) ∧
    (∀ (i : Instr) (s t : State), s.refused = none → exec i s = .next t → t.refused ≠ none →
      t = { s with refused := t.refused }) ∧
    (∀ s t : State, s.refused = none → step s = .next t → t.refused ≠ none → t = { s with refused := t.refused }) ∧
    ∀ (s : State) (e : Unsupported), s.fatal = none → step { s with refused := some e } = .refused (.outOfScope e)

/-- R1314: EI takes effect after the next instruction: its own step leaves IME and starts the count, the next executed
instruction's step sets IME, unless that is DI, which cancels it; a halted or stopped step leaves both. -/
def Obligations.EiTakesEffectAfterNext : Prop :=
  (∀ s : State, s.Live → s.Executes → s.eiDelay.val = 0 → s.peek s.pc = .byte 0xFB →
      ∃ t, step s = .next t ∧ t.fatal = none ∧ t.refused = none ∧ t.ime = s.ime ∧ t.eiDelay.val = 1) ∧
    (∀ s t : State, s.stopped = true ∨ s.halted = true → step s = .next t → t.ime = s.ime ∧ t.eiDelay = s.eiDelay) ∧
    ∀ (s t u : State) (i : Instr), s.Live → s.Executes → s.eiDelay.val = 1 → s.fetch = .ok (i, u) → step s = .next t →
      t.fatal = none → t.refused = none → t.eiDelay.val = 0 ∧ t.ime = decide (i ≠ .di)

/-- R120: only four things write IME: EI through its delay, DI, RETI and interrupt dispatch. -/
def Obligations.OnlyFourWritersOfIme : Prop :=
  ∀ s t : State, step s = .next t → t.ime ≠ s.ime →
    s.stopped = false ∧ s.halted = false ∧
      ((s.ime = true ∧ s.Pending ∧ t.ime = false) ∨
        ∃ i u, s.fetch = .ok (i, u) ∧
          ((i = .di ∧ t.ime = false) ∨ (i = .reti ∧ t.ime = true) ∨ (s.eiDelay.val = 1 ∧ t.ime = true)))

/-! ### Invariants -/

/-- Every step keeps the invariant of the machine. Of its parts, the canonical form of a memory is the model's (log 3), the
window's line counter keeps the range of R191 by wrapping (log 12), and the length of mode 3 is held for the line (log
15). -/
def Obligations.StepKeepsInv : Prop := ∀ s t : State, s.Inv → step s = .next t → t.Inv

/-- The reset state meets the invariant. -/
def Obligations.ResetMeetsInv : Prop := State.reset.Inv

/-- R1432: a machine that meets the invariant never raises an invariant violation. -/
def Obligations.InvariantViolationNeverRaised : Prop :=
  ∀ s t : State, s.Inv → s.fatal = none → step s = .next t → ∀ c n, t.fatal ≠ some (.invariantViolation c n)

/-- R134, R320: no step changes the cartridge ROM, the cartridge's kind and sizes, the parameters, or what the host
holds; and once the boot ROM is unmapped it stays so. -/
def Obligations.LoadedImageStays : Prop :=
  ∀ s t : State, step s = .next t →
    t.cfg = s.cfg ∧ t.cart.rom = s.cart.rom ∧ t.cart.romLen = s.cart.romLen ∧ t.cart.ramLen = s.cart.ramLen ∧
      t.cart.battery = s.cart.battery ∧ sameKind s.cart.ctrl t.cart.ctrl ∧ t.joypad.pressed = s.joypad.pressed ∧
      (s.bootMapped = false → t.bootMapped = false)

/-- R1301, R1760: the total grows by the count the step returns, which is that of the CPU's part: 0 exactly while stopped,
4 while halted, 20 for a dispatch, and for an instruction the count of the opcode maps, which its condition alone can
change. -/
def Obligations.CyclesAddUp : Prop :=
  ∀ s t : State, step s = .next t → t.fatal = none → t.refused = none →
    t.totalCycles = s.totalCycles + t.cycles ∧ (t.cycles = 0 ↔ s.stopped = true) ∧
      (s.stopped = false → s.halted = true → t.cycles = 4) ∧
      (s.stopped = false → s.halted = false → s.ime = true → s.Pending → t.cycles = 20) ∧
      (s.Executes → ∀ i u, s.fetch = .ok (i, u) → t.cycles = instrCycles s.regs.f i)

/-! ### Timer -/

/-- R1509: the timer advances one cycle at a time, and n cycles at once are n advances of one; the counter counts every
cycle whatever TAC holds; TIMA counts the falling edges of the tapped bit while enabled, and not at all while disabled. -/
def Obligations.TimerAdvanceRate : Prop :=
  ∀ (s : State) (m n : Nat),
    s.timerAdvance 1 = s.withTimer { s.timer with counter := s.timer.counter + 1 } ∧
    s.timerAdvance (m + n) = (s.timerAdvance m).timerAdvance n ∧
    let t := s.timerAdvance n
    let period := 2 ^ (tapBit s.timer.tac + 1)
    let edges := (s.timer.counter.toNat + n) / period - s.timer.counter.toNat / period
    t = { s with timer := { s.timer with counter := s.timer.counter + BitVec.ofNat 16 n, tima := t.timer.tima }, ifl := t.ifl } ∧
      (s.timer.tac.getLsbD 2 = false → t.timer.tima = s.timer.tima ∧ t.ifl = s.ifl) ∧
      (s.timer.tac.getLsbD 2 = true → s.timer.tima.toNat + edges ≤ 255 →
        t.timer.tima.toNat = s.timer.tima.toNat + edges ∧ t.ifl = s.ifl)

/-- R1510: at the overflow boundary one cycle gives one reload and one request, and a whole period more gives exactly one
more, at its last cycle. -/
def Obligations.TimerOverflowOncePerPeriod : Prop :=
  ∀ s : State, s.timer.tac.getLsbD 2 = true → s.timer.tima = 0xFF → s.timer.tma = 0xFF →
    s.timer.counter.toNat = 2 ^ (tapBit s.timer.tac + 1) - 1 →
    let one := s.timerAdvance 1
    one.timer.tima = 0xFF ∧ one.ifl = s.ifl ||| 0b00100#5 ∧
      ∀ n, n ≤ 2 ^ (tapBit s.timer.tac + 1) →
        ({ one with ifl := 0 }.timerAdvance n).timer.tima = 0xFF ∧
          ({ one with ifl := 0 }.timerAdvance n).ifl = if n = 2 ^ (tapBit s.timer.tac + 1) then 0b00100#5 else 0

/-- R1505-R1508: what a CPU write to DIV, TAC, TIMA and TMA does, the first two with the edge they may make, and STOP's
reset of the divider; enabling never counts. -/
def Obligations.TimerRegisterWrites : Prop :=
  ∀ (s : State) (v : Byte),
    exec (.stop v) s = .next { s.stepTo (s.withTimer { s.timer with counter := 0 }) 2 4 s.regs with stopped := true } ∧
      s.write 0xFF04 v = .ok (s.withTimer { s.timer with counter := 0 }) ∧
      s.write 0xFF07 v = .ok (s.withTimer { s.timer with tac := v.extractLsb' 0 3 }) ∧
      s.write 0xFF05 v = .ok { s with timer := { s.timer with tima := v } } ∧
      s.write 0xFF06 v = .ok { s with timer := { s.timer with tma := v } } ∧
      (s.timer.tac.getLsbD 2 = false → s.write 0xFF07 v = .ok { s with timer := { s.timer with tac := v.extractLsb' 0 3 } })

/-! ### Picture unit -/

/-- R1600, R1609: from the start of a frame, after n cycles the unit is at dot n mod 456 of line n / 456 mod 154, in the
mode the schedule gives, mode 3 of every line being as long as a constant MODE3_LEN says, and V-blank has been entered once
by cycle 65664 and not again within the frame. -/
def Obligations.FrameBudget : Prop :=
  ∀ (s : State) (n : Nat), s.ppu.on = true → s.ppu.ly = 0 → s.ppu.dot = 0 → s.ppu.mode = .oamScan →
    let t := s.ppuAdvance n
    t.ppu.dot = n % 456 ∧ t.ppu.ly = n / 456 % 154 ∧ t.ppu.mode = scheduledMode t.ppu.ly t.ppu.dot t.ppu.mode3Len ∧
      (∀ extra : Fin 118, s.cfg.mode3 = .constant extra → 80 ≤ n → t.ppu.mode3Len = 172 + extra.val) ∧
      t.ifl.getLsbD 0 = (s.ifl.getLsbD 0 || decide (65664 ≤ n)) ∧
      ∀ m, m ≤ 4560 → ({ s.ppuAdvance 65664 with ifl := 0 }.ppuAdvance m).ifl.getLsbD 0 = false

/-- R1604, and the requests of R1603 and R1605: what one cycle requests: VBlank on entry to line 144; STAT on entry to
mode 0, 1 or 2 under its select bit, and on LY = LYC at a change of LY; entry to mode 3 requests nothing. The coincidence
flag follows LY. And R1601's length of mode 3: MODE3_LEN is taken for each visible line when it reaches dot 80, and kept till
the next line's: 172 and the constant, or 172 and a free function of the registers and OAM of that cycle (log 15). -/
def Obligations.PpuRequests : Prop :=
  ∀ s : State, s.ppu.Scheduled → s.ppu.on = true →
    let p := s.ppu
    let t := s.ppuAdvance 1
    let wrap := p.dot = 455
    let ly' := if p.ly = 153 then 0 else p.ly + 1
    let toHblank := p.ly < 144 ∧ p.dot + 1 = 80 + p.mode3Len
    (t.ifl.getLsbD 0 = (s.ifl.getLsbD 0 || decide (wrap ∧ p.ly = 143))) ∧
      (t.ifl.getLsbD 1 = (s.ifl.getLsbD 1 ||
        decide ((toHblank ∧ p.statSel.getLsbD 0 = true) ∨
          (wrap ∧ p.ly = 143 ∧ p.statSel.getLsbD 1 = true) ∨
          (wrap ∧ ly' < 144 ∧ p.statSel.getLsbD 2 = true) ∨
          (wrap ∧ ly' = p.lyc.toNat ∧ p.statSel.getLsbD 3 = true)))) ∧
      (∀ k, 2 ≤ k → t.ifl.getLsbD k = s.ifl.getLsbD k) ∧
      (t.ppu.coinc = if wrap then decide (ly' = p.lyc.toNat) else p.coinc) ∧
      (t.ppu.mode3Len =
        if p.ly < 144 ∧ p.dot = 79 then
          match s.cfg.mode3 with
          | .constant extra => 172 + extra.val
          | .ofLine => 172 + (Config.mode3Extra
              { ly := p.ly, lcdc := p.lcdc, scx := p.scx, scy := p.scy, wx := p.wx, wy := p.wy, winLine := p.winLine
                oam := s.oam }).val
        else p.mode3Len)

/-- R1606-R1608: CPU writes to LCDC, STAT and LY, and R1605's to LYC. Turning the display off blanks the frame and idles
the unit at LY 0 in mode 0; turning it on restarts it at LY 0 in mode 2; neither requests an interrupt; while it is off no
cycle changes anything. -/
def Obligations.PpuRegisterWrites : Prop :=
  ∀ (s : State) (v : Byte) (n : Nat),
    (s.ppu.lcdc.getLsbD 7 = true → v.getLsbD 7 = false → s.write 0xFF40 v = .ok
      { s with ppu := { s.ppu with
          lcdc := v, ly := 0, dot := 0, mode := .hblank
          fb := List.replicate 144 (List.replicate 160 (if s.cfg.cgbMode then 0x7FFF else 0)) } }) ∧
    (s.ppu.lcdc.getLsbD 7 = false → v.getLsbD 7 = true → s.write 0xFF40 v = .ok
      { s with ppu := { s.ppu with
          lcdc := v, ly := 0, dot := 0, mode := .oamScan, winLine := 0, coinc := decide (s.ppu.lyc = 0) } }) ∧
    (s.ppu.lcdc.getLsbD 7 = v.getLsbD 7 → s.write 0xFF40 v = .ok { s with ppu := { s.ppu with lcdc := v } }) ∧
    (s.ppu.lcdc.getLsbD 7 = false →
      s.ppuAdvance n = s ∧ (s.Inv → s.peek 0xFF44 = .byte 0 ∧
        s.frame = List.replicate 144 (List.replicate 160 (if s.cfg.cgbMode then 0x7FFF else 0)))) ∧
    (∃ b : Byte, s.peek 0xFF41 = .byte b ∧
      (s.ppu.lcdc.getLsbD 7 = false → b.getLsbD 0 = false ∧ b.getLsbD 1 = false)) ∧
    (s.ppu.lcdc.getLsbD 7 = false → s.write 0xFF45 v = .ok { s with ppu := { s.ppu with lyc := v } }) ∧
    (s.ppu.lcdc.getLsbD 7 = true → s.write 0xFF45 v = .ok
      { s with
        ppu := { s.ppu with lyc := v, coinc := decide (s.ppu.ly = v.toNat) }
        ifl := if s.ppu.ly = v.toNat ∧ s.ppu.coinc = false ∧ s.ppu.statSel.getLsbD 3 = true then s.ifl ||| 0b00010#5
          else s.ifl }) ∧
    s.write 0xFF41 v = .ok { s with ppu := { s.ppu with statSel := v.extractLsb' 3 4 } } ∧
    s.write 0xFF44 v = .ok s

/-- R1620, and R1624's counter while the display is on, which keeps the range of R191 by wrapping (log 12): a row of the
frame is drawn in one action, at the cycle that enters mode 0 of its line, from the memories and registers of that cycle;
no other cycle and no other row is drawn; the window's line counter counts the rows the window shows in. -/
def Obligations.RowDrawnAtModeZero : Prop :=
  ∀ s : State, s.ppu.Scheduled → s.ppu.on = true →
    let p := s.ppu
    let t := s.ppuAdvance 1
    let toHblank := p.ly < 144 ∧ p.dot + 1 = 80 + p.mode3Len
    let shown := p.lcdc.getLsbD 5 = true ∧ p.wy.toNat ≤ p.ly ∧ p.wx.toNat ≤ 166 ∧
      (s.cfg.cgbMode = true ∨ p.lcdc.getLsbD 0 = true)
    (toHblank →
      (∀ y, y ≠ p.ly → t.ppu.fb.getD y [] = p.fb.getD y []) ∧
      (s.FrameShaped → ∀ x, x < 160 → (t.ppu.fb.getD p.ly []).getD x 0 =
        s.video.pixel p (s.video.lineSprites p p.ly) x p.ly) ∧
      t.ppu.winLine = if shown then (p.winLine + 1) % 144 else p.winLine) ∧
    (¬toHblank → t.ppu.fb = p.fb ∧ t.ppu.winLine = if p.dot = 455 ∧ p.ly = 153 then 0 else p.winLine)

/-- What R1621-R1625 and R1630 say of a DMG pixel with sprites off: from the window's own map and line, unscrolled, where
the window is shown and covers the column, else from the scrolled background; the tile row, the two bit planes, the shade
BGP gives. With LCDC bit 0 off the pixel is shade 0. -/
def Obligations.DmgBackgroundWindowPixel : Prop :=
  ∀ (v : Video) (p : Ppu) (x y : Nat), v.cgb = false → p.lcdc.getLsbD 1 = false →
    let window := p.lcdc.getLsbD 5 = true ∧ p.wy.toNat ≤ y ∧ p.wx.toNat ≤ 166 ∧ p.wx.toNat ≤ x + 7
    let px := if window then x + 7 - p.wx.toNat else (p.scx.toNat + x) % 256
    let py := if window then p.winLine else (p.scy.toNat + y) % 256
    let map := if p.lcdc.getLsbD (if window then 6 else 3) then 0x1C00 else 0x1800
    let n := v.vramByte (map + 32 * (py / 8) + px / 8)
    let tile := if p.lcdc.getLsbD 4 then 16 * n.toNat else if n.toNat < 128 then 0x1000 + 16 * n.toNat else 16 * n.toNat
    let index := tileIndex v tile (py % 8) (px % 8)
    (p.lcdc.getLsbD 0 = true → (v.pixel p (v.lineSprites p y) x y).toNat = p.bgp.toNat / 4 ^ index % 4) ∧
      (p.lcdc.getLsbD 0 = false → v.pixel p (v.lineSprites p y) x y = 0)

/-- R1626: the sprites of a line are the first ten OAM entries, in OAM order, whose rows cover it, whatever their X; none
while LCDC bit 1 is 0. One with X 0 or from 168 on covers no column. An entry's four bytes are Y, X, tile and attributes in
that order (R132). -/
def Obligations.SpriteSelection : Prop :=
  ∀ (v : Video) (p : Ppu) (y : Nat),
    let h := if p.lcdc.getLsbD 2 then 16 else 8
    let onLine (o : Sprite) : Bool := decide (o.y.toNat ≤ y + 16 ∧ y + 16 < o.y.toNat + h)
    let l := v.lineSprites p y
    (∀ i, i < 40 → (v.sprite i).y = v.oamByte (4 * i) ∧ (v.sprite i).x = v.oamByte (4 * i + 1) ∧
      (v.sprite i).tile = v.oamByte (4 * i + 2) ∧ (v.sprite i).attr = v.oamByte (4 * i + 3)) ∧
      (p.lcdc.getLsbD 1 = false → l = []) ∧
      (p.lcdc.getLsbD 1 = true →
        l.length ≤ 10 ∧ ∃ k, k ≤ 40 ∧ l = ((List.range k).map v.sprite).filter onLine ∧ (k = 40 ∨ l.length = 10)) ∧
      ∀ (o : Sprite) (x : Nat), o.x = 0 ∨ 168 ≤ o.x.toNat → x < 160 → ¬Opaque v p x y o

/-- R1627, R1628, R1642, R1644, R1645: which tile byte a sprite's pixel comes from, its flips, its tile pair and its bank;
the colors of a CGB sprite; and the sprite that decides a column is opaque there and, in DMG mode, has the lowest X, the lower
OAM index on a tie, in CGB mode the lowest OAM index; it shows unless the background hides it, in DMG mode in the shade
its palette register gives; with no opaque sprite the background shows. -/
def Obligations.SpritePriority : Prop :=
  ∀ (v : Video) (p : Ppu) (l : List Sprite) (x y : Nat),
    let b := v.bgPixel p x y
    ((∀ o ∈ l, ¬Opaque v p x y o) → v.pixel p l x y = v.bgColor p b) ∧
      (∀ o : Sprite,
        let h := if p.lcdc.getLsbD 2 then 16 else 8
        o.y.toNat ≤ y + 16 → y + 16 < o.y.toNat + h → o.x.toNat ≤ x + 8 → x < o.x.toNat →
          let r := if o.attr.getLsbD 6 then h - 1 - (y + 16 - o.y.toNat) else y + 16 - o.y.toNat
          let c := if o.attr.getLsbD 5 then 7 - (x + 8 - o.x.toNat) else x + 8 - o.x.toNat
          let n := if h = 16 then o.tile.toNat / 2 * 2 else o.tile.toNat
          let bank := if v.cgb = true ∧ o.attr.getLsbD 3 = true then 0x2000 else 0
          (v.spriteColor p o x y).toNat = tileIndex v (bank + 16 * n) r c) ∧
      (∀ (o : Sprite) (i : BitVec 2), v.cgb = true → (v.objColor p o i).toNat =
        paletteEntry (Memory.get v.objPal (Config.initMem .objPal)) (o.attr.toNat % 8) i.toNat) ∧
      (∀ (o : Sprite) (i : BitVec 2), v.cgb = false →
        (v.objColor p o i).toNat = (if o.attr.getLsbD 4 then p.obp1 else p.obp0).toNat / 4 ^ i.toNat % 4) ∧
      ∀ l1 o l2, l = l1 ++ o :: l2 → Opaque v p x y o →
        (v.cgb = false → (∀ q ∈ l1, Opaque v p x y q → o.x.toNat < q.x.toNat) →
          (∀ q ∈ l2, Opaque v p x y q → o.x.toNat ≤ q.x.toNat) →
          v.pixel p l x y = if o.attr.getLsbD 7 = true ∧ b.index ≠ 0 then v.bgColor p b
            else v.objColor p o (v.spriteColor p o x y)) ∧
        (v.cgb = true → (∀ q ∈ l1, ¬Opaque v p x y q) →
          v.pixel p l x y =
            if p.lcdc.getLsbD 0 = true ∧ b.index ≠ 0 ∧ (b.attr.getLsbD 7 = true ∨ o.attr.getLsbD 7 = true) then v.bgColor p b
            else v.objColor p o (v.spriteColor p o x y))

/-! ### Bus, cartridge, devices -/

/-- R316: each access at an echo address is the access 0x2000 below. -/
def Obligations.EchoAliasesWorkRam : Prop :=
  ∀ (s : State) (a : Word) (v : Byte), 0xE000 ≤ a.toNat → a.toNat ≤ 0xFDFF →
    s.target a = s.target (a - 0x2000) ∧ s.read a = s.read (a - 0x2000) ∧ s.write a v = s.write (a - 0x2000) v

/-- R312: a read of 0x0000-0x7FFF gives the ROM byte the controller selects; a write there never changes ROM: it is a
command that may change the controller's latches and changes nothing else. -/
def Obligations.RomWritesAreCommands : Prop :=
  ∀ (s : State) (a : Word) (v : Byte), a.toNat ≤ 0x7FFF →
    (s.bootMapped = false → s.peek a = .byte (s.cart.romByte (s.cart.romIndex a.toNat))) ∧
      ∃ ctrl, sameKind s.cart.ctrl ctrl ∧ s.write a v = .ok { s with cart := { s.cart with ctrl := ctrl } }

/-- R421, R422: MBC1's commands and the ROM byte a read reaches. -/
def Obligations.Mbc1Banking : Prop :=
  ∀ (s : State) (a : Word) (v : Byte) (en : Bool) (b1 : BitVec 5) (b2 : BitVec 2) (md : Bool),
    s.cart.ctrl = .mbc1 en b1 b2 md → s.bootMapped = false →
    let cmd (c : Controller) : Eff State := .ok { s with cart := { s.cart with ctrl := c } }
    let n := a.toNat
    let low := if v.toNat % 32 = 0 then 1 else v.toNat % 32
    (n < 0x2000 → s.write a v = cmd (.mbc1 (decide (v.toNat % 16 = 10)) b1 b2 md)) ∧
      (0x2000 ≤ n → n < 0x4000 → s.write a v = cmd (.mbc1 en (BitVec.ofNat 5 low) b2 md)) ∧
      (0x4000 ≤ n → n < 0x6000 → s.write a v = cmd (.mbc1 en b1 (BitVec.ofNat 2 v.toNat) md)) ∧
      (0x6000 ≤ n → n < 0x8000 → s.write a v = cmd (.mbc1 en b1 b2 (decide (v.toNat % 2 = 1)))) ∧
      (n < 0x4000 → s.peek a =
        .byte (s.cart.romByte (((if md then b2.toNat * 32 else 0) * 0x4000 + n) % s.cart.romLen))) ∧
      (0x4000 ≤ n → n < 0x8000 → s.peek a =
        .byte (s.cart.romByte (((b2.toNat * 32 + b1.toNat) * 0x4000 + (n - 0x4000)) % s.cart.romLen)))

/-- R431, R432, R441, R442, R451, and the commands of R410 and R450: the other controllers' bank commands and the ROM byte
a read reaches. -/
def Obligations.OtherControllersBanking : Prop :=
  ∀ (s : State) (a : Word) (v : Byte), s.bootMapped = false →
    let cmd (c : Controller) : Eff State := .ok { s with cart := { s.cart with ctrl := c } }
    let n := a.toNat
    let window (bank : Nat) : Prop :=
      (n < 0x4000 → s.peek a = .byte (s.cart.romByte (n % s.cart.romLen))) ∧
        (0x4000 ≤ n → n < 0x8000 → s.peek a = .byte (s.cart.romByte ((bank * 0x4000 + (n - 0x4000)) % s.cart.romLen)))
    (s.cart.ctrl = .romOnly → window 1 ∧ (n < 0x8000 → s.write a v = .ok s)) ∧
    (∀ en romb, s.cart.ctrl = .mbc2 en romb → window romb.toNat ∧
      (n < 0x4000 → n / 256 % 2 = 0 → s.write a v = cmd (.mbc2 (decide (v.toNat % 16 = 10)) romb)) ∧
      (n < 0x4000 → n / 256 % 2 = 1 →
        s.write a v = cmd (.mbc2 en (BitVec.ofNat 4 (if v.toNat % 16 = 0 then 1 else v.toNat % 16)))) ∧
      (0x4000 ≤ n → n < 0x8000 → s.write a v = .ok s)) ∧
    (∀ en romb ramb, s.cart.ctrl = .mbc3 en romb ramb → window romb.toNat ∧
      (n < 0x2000 → s.write a v = cmd (.mbc3 (decide (v.toNat % 16 = 10)) romb ramb)) ∧
      (0x2000 ≤ n → n < 0x4000 →
        s.write a v = cmd (.mbc3 en (BitVec.ofNat 7 (if v.toNat % 128 = 0 then 1 else v.toNat % 128)) ramb)) ∧
      (0x4000 ≤ n → n < 0x6000 → s.write a v = cmd (.mbc3 en romb v)) ∧
      (0x6000 ≤ n → n < 0x8000 → s.write a v = .ok s)) ∧
    (∀ rumble en romb ramb, s.cart.ctrl = .mbc5 rumble en romb ramb → window romb.toNat ∧
      (n < 0x2000 → s.write a v = cmd (.mbc5 rumble (decide (v.toNat = 10)) romb ramb)) ∧
      (0x2000 ≤ n → n < 0x3000 →
        s.write a v = cmd (.mbc5 rumble en (BitVec.ofNat 9 (romb.toNat / 256 * 256 + v.toNat)) ramb)) ∧
      (0x3000 ≤ n → n < 0x4000 →
        s.write a v = cmd (.mbc5 rumble en (BitVec.ofNat 9 (v.toNat % 2 * 256 + romb.toNat % 256)) ramb)) ∧
      (0x4000 ≤ n → n < 0x6000 →
        s.write a v = cmd (.mbc5 rumble en romb (BitVec.ofNat 4 (v.toNat % if rumble then 8 else 16)))) ∧
      (0x6000 ≤ n → n < 0x8000 → s.write a v = .ok s))

/-- R314, R423, R433, R443, R452, R1784, and R410's RAM: which cell of the external RAM an access reaches under each
controller; with RAM disabled or absent a read gives 0xFF and a write does nothing; and what `saveRam` reads out, MBC2's
cells in low nibbles. -/
def Obligations.ExternalRamAccess : Prop :=
  (∀ s : State, s.saveRam.length = s.cart.ramLen ∧ ∀ i, i < s.cart.ramLen →
    ((∀ en romb, s.cart.ctrl ≠ .mbc2 en romb) → s.saveRam.getD i 0 = s.cart.ramByte i) ∧
      (∀ en romb, s.cart.ctrl = .mbc2 en romb → s.saveRam.getD i 0 = BitVec.ofNat 8 ((s.cart.ramByte i).toNat % 16))) ∧
  ∀ (s : State) (a : Word) (v : Byte), 0xA000 ≤ a.toNat → a.toNat ≤ 0xBFFF →
    let o := a.toNat - 0xA000
    let closed : Prop := s.peek a = .byte 0xFF ∧ s.write a v = .ok s
    let cell (bank : Nat) : Prop :=
      if s.cart.ramLen = 0 then closed
      else
        let i := (bank * 0x2000 + o) % s.cart.ramLen
        s.peek a = .byte (s.cart.ramByte i) ∧
          s.write a v = .ok { s with cart := { s.cart with ram := Memory.write s.cart.ram i v } }
    (s.cart.ctrl = .romOnly → cell 0) ∧
    (∀ b1 b2 md, s.cart.ctrl = .mbc1 true b1 b2 md → cell (if md then b2.toNat else 0)) ∧
    (∀ b1 b2 md, s.cart.ctrl = .mbc1 false b1 b2 md → closed) ∧
    (∀ romb, s.cart.ctrl = .mbc2 true romb →
      s.peek a = .byte (BitVec.ofNat 8 (0xF0 + (s.cart.ramByte (o % 512)).toNat % 16)) ∧
        s.write a v = .ok { s with cart := { s.cart with ram := Memory.write s.cart.ram (o % 512) (v &&& 0x0F) } }) ∧
    (∀ romb, s.cart.ctrl = .mbc2 false romb → closed) ∧
    (∀ romb ramb, s.cart.ctrl = .mbc3 true romb ramb →
      (ramb.toNat ≤ 3 → cell ramb.toNat) ∧ (3 < ramb.toNat → ramb.toNat < 8 ∨ 0x0C < ramb.toNat → closed) ∧
        (8 ≤ ramb.toNat → ramb.toNat ≤ 0x0C → s.read a = .error .mbc3Clock ∧ s.write a v = .error .mbc3Clock)) ∧
    (∀ romb ramb, s.cart.ctrl = .mbc3 false romb ramb → closed) ∧
    (∀ rumble romb ramb, s.cart.ctrl = .mbc5 rumble true romb ramb → cell ramb.toNat) ∧
    (∀ rumble romb ramb, s.cart.ctrl = .mbc5 rumble false romb ramb → closed)

/-- R318, R141: the gap reads the parameter and ignores writes; an unmapped I/O address reads 0xFF and ignores
writes, in DMG mode the CGB-only registers among them. And the rows of the table of R140: what the registers read, bits
that always read 1 among them; what a write of IF, IE and the plain picture registers stores (R157, R162, R163, R167-R171);
in CGB mode KEY1, HDMA1-HDMA5, RP and OPRI (R172, R175, R176, R181). -/
def Obligations.GapAndIoReads : Prop :=
  (∀ (s : State) (a : Word) (v : Byte),
    (0xFEA0 ≤ a.toNat → a.toNat ≤ 0xFEFF → s.peek a = .byte s.cfg.gapRead ∧ s.write a v = .ok s) ∧
      let n := a.toNat - 0xFF00
      (0xFF00 ≤ a.toNat → a.toNat ≤ 0xFF7F →
        (n = 0x03 ∨ (0x08 ≤ n ∧ n ≤ 0x0E) ∨ (0x27 ≤ n ∧ n ≤ 0x2F) ∨ n = 0x4C ∨ n = 0x4E ∨ (0x57 ≤ n ∧ n ≤ 0x67) ∨
          (0x6D ≤ n ∧ n ≤ 0x6F) ∨ 0x71 ≤ n ∨
          (s.cfg.cgbMode = false ∧ n ∈ [0x4D, 0x4F, 0x51, 0x52, 0x53, 0x54, 0x55, 0x56, 0x68, 0x69, 0x6A, 0x6B, 0x6C, 0x70])) →
        s.peek a = .byte 0xFF ∧ s.write a v = .ok s)) ∧
  (∀ (s : State) (v : Byte),
    let stored (p : Ppu) : Eff State := .ok { s with ppu := p }
    s.write 0xFF0F v = .ok { s with ifl := BitVec.ofNat 5 v.toNat } ∧ s.write 0xFFFF v = .ok { s with ie := v } ∧
      s.write 0xFF42 v = stored { s.ppu with scy := v } ∧ s.peek 0xFF42 = .byte s.ppu.scy ∧
      s.write 0xFF43 v = stored { s.ppu with scx := v } ∧ s.peek 0xFF43 = .byte s.ppu.scx ∧
      s.write 0xFF47 v = stored { s.ppu with bgp := v } ∧ s.peek 0xFF47 = .byte s.ppu.bgp ∧
      s.write 0xFF48 v = stored { s.ppu with obp0 := v } ∧ s.peek 0xFF48 = .byte s.ppu.obp0 ∧
      s.write 0xFF49 v = stored { s.ppu with obp1 := v } ∧ s.peek 0xFF49 = .byte s.ppu.obp1 ∧
      s.write 0xFF4A v = stored { s.ppu with wy := v } ∧ s.peek 0xFF4A = .byte s.ppu.wy ∧
      s.write 0xFF4B v = stored { s.ppu with wx := v } ∧ s.peek 0xFF4B = .byte s.ppu.wx ∧
      s.peek 0xFF01 = .byte s.serial.sb ∧ s.peek 0xFF45 = .byte s.ppu.lyc ∧
      (∀ u, s.write 0xFF50 v = .ok u → u.peek 0xFF50 = .byte 0xFF) ∧
      (s.cfg.cgbMode = true →
        (∀ a : Word, 0xFF51 ≤ a.toNat → a.toNat ≤ 0xFF55 → s.peek a = .byte 0xFF) ∧
          (∀ a : Word, 0xFF51 ≤ a.toNat → a.toNat ≤ 0xFF54 → s.write a v = .ok s) ∧
          s.write 0xFF55 v = .error .vramDma ∧
          s.write 0xFF4D v = (if v.getLsbD 0 then .error .speedSwitch else .ok s) ∧
          s.write 0xFF56 v = .ok
            { s with cgb := { s.cgb with rpHigh := BitVec.ofNat 2 (v.toNat / 64), rpLow := BitVec.ofNat 1 v.toNat } } ∧
          s.write 0xFF6C v = .ok { s with cgb := { s.cgb with opri := BitVec.ofNat 1 v.toNat } })) ∧
  ∀ s : State,
    s.peek 0xFF02 = .byte (if s.cfg.cgbMode
      then BitVec.ofNat 8 (0x7C + 128 * s.serial.busy.toNat + 2 * s.serial.fast.toNat + s.serial.internal.toNat)
      else BitVec.ofNat 8 (0x7E + 128 * s.serial.busy.toNat + s.serial.internal.toNat)) ∧
    s.peek 0xFF04 = .byte (BitVec.ofNat 8 (s.timer.counter.toNat / 256)) ∧
    s.peek 0xFF05 = .byte s.timer.tima ∧ s.peek 0xFF06 = .byte s.timer.tma ∧
    s.peek 0xFF07 = .byte (BitVec.ofNat 8 (0xF8 + s.timer.tac.toNat)) ∧
    s.peek 0xFF0F = .byte (BitVec.ofNat 8 (0xE0 + s.ifl.toNat)) ∧
    s.peek 0xFF40 = .byte s.ppu.lcdc ∧
    s.peek 0xFF41 = .byte (BitVec.ofNat 8 (0x80 + 8 * s.ppu.statSel.toNat + 4 * s.ppu.coinc.toNat +
      if s.ppu.lcdc.getLsbD 7 then
        match s.ppu.mode with | .hblank => 0 | .vblank => 1 | .oamScan => 2 | .transfer => 3
      else 0)) ∧
    s.peek 0xFF44 = .byte (BitVec.ofNat 8 s.ppu.ly) ∧ s.peek 0xFF46 = .byte s.dma ∧ s.peek 0xFF50 = .byte 0xFF ∧
    s.peek 0xFFFF = .byte s.ie ∧
    (s.cfg.cgbMode = true →
      s.peek 0xFF4D = .byte 0x7E ∧ s.peek 0xFF4F = .byte (BitVec.ofNat 8 (0xFE + s.cgb.vbk.toNat)) ∧
        s.peek 0xFF56 = .byte (BitVec.ofNat 8 (0x3E + 64 * s.cgb.rpHigh.toNat + s.cgb.rpLow.toNat)) ∧
        s.peek 0xFF6C = .byte (BitVec.ofNat 8 (0xFE + s.cgb.opri.toNat)) ∧
        s.peek 0xFF70 = .byte (BitVec.ofNat 8 (0xF8 + s.cgb.svbk.toNat)))

/-- R340: a write of a page below 0xE0 to DMA stores it and copies the page's first 160 bytes to OAM within the
instruction; no lock applies to OAM's side; nothing else changes. The bytes are what the bus gives for the page, so those
of busy VRAM obey VIDEO_LOCK (log 14, the model's inference). A page from 0xE0 on is refused. -/
def Obligations.OamDmaCopiesPage : Prop :=
  (∀ (s : State) (v : Byte), 0xE0 ≤ v.toNat → s.write 0xFF46 v = .error .oamDmaSource) ∧
  ∀ (s : State) (v : Byte) (page : Nat → Byte), v.toNat ≤ 0xDF →
    (∀ i, i < 160 → s.peek (v ++ BitVec.ofNat 8 i) = .byte (page i)) →
    ∃ u, s.write 0xFF46 v = .ok u ∧ u = { s with dma := v, oam := u.oam } ∧
      ∀ i, i < 160 → u.video.oamByte i = page i

/-- R322: the three policies for VRAM and OAM while the picture unit uses them. A draw of the third is a free value
(log 4), one for each access (log 21). -/
def Obligations.VideoLockPolicy : Prop :=
  ∀ (s : State) (a : Word) (v : Byte),
    let vram := 0x8000 ≤ a.toNat ∧ a.toNat ≤ 0x9FFF
    let oam := 0xFE00 ≤ a.toNat ∧ a.toNat ≤ 0xFE9F
    let busy := s.ppu.lcdc.getLsbD 7 = true ∧
      ((vram ∧ s.ppu.mode = .transfer) ∨ (oam ∧ (s.ppu.mode = .transfer ∨ s.ppu.mode = .oamScan)))
    let bank := if s.cfg.cgbMode then s.cgb.vbk.toNat else 0
    let stored : State :=
      if vram then { s with vram := Memory.write s.vram (bank * 0x2000 + (a.toNat - 0x8000)) v }
      else { s with oam := Memory.write s.oam (a.toNat - 0xFE00) v }
    let held : Byte := if vram then s.video.vramByte (bank * 0x2000 + (a.toNat - 0x8000)) else s.video.oamByte (a.toNat - 0xFE00)
    vram ∨ oam →
      (¬busy ∨ s.cfg.videoLock = .free → s.peek a = .byte held ∧ s.write a v = .ok stored) ∧
      (busy → s.cfg.videoLock = .locked → s.peek a = .byte 0xFF ∧ s.write a v = .ok s) ∧
      (busy → s.cfg.videoLock = .unknown → s.peek a = .draw ∧
        (s.write a v = .ok { stored with draws := s.draws + 1 } ∨ s.write a v = .ok { s with draws := s.draws + 1 }))

/-- R173, R177-R180, R182: the CGB bank and palette registers; SVBK 0 selects bank 1. And R1640, R1641: the background or
window pixel the two VRAM banks give, its attribute byte, flips and tile bank, and the color the palette memory gives it,
laid out as R137 says. -/
def Obligations.CgbBankAndPalettePorts : Prop :=
  (∀ (v : Video) (p : Ppu) (x y : Nat), v.cgb = true →
    let window := p.lcdc.getLsbD 5 = true ∧ p.wy.toNat ≤ y ∧ p.wx.toNat ≤ 166 ∧ p.wx.toNat ≤ x + 7
    let px := if window then x + 7 - p.wx.toNat else (p.scx.toNat + x) % 256
    let py := if window then p.winLine else (p.scy.toNat + y) % 256
    let cell := (if p.lcdc.getLsbD (if window then 6 else 3) then 0x1C00 else 0x1800) + 32 * (py / 8) + px / 8
    let n := v.vramByte cell
    let attr := v.vramByte (0x2000 + cell)
    let tile := if p.lcdc.getLsbD 4 then 16 * n.toNat else if n.toNat < 128 then 0x1000 + 16 * n.toNat else 16 * n.toNat
    let row := if attr.getLsbD 6 then 7 - py % 8 else py % 8
    let col := if attr.getLsbD 5 then 7 - px % 8 else px % 8
    let b := v.bgPixel p x y
    b.attr = attr ∧ b.index.toNat = tileIndex v ((if attr.getLsbD 3 then 0x2000 else 0) + tile) row col ∧
      (v.bgColor p b).toNat = paletteEntry (Memory.get v.bgPal (Config.initMem .bgPal)) (attr.toNat % 8) b.index.toNat) ∧
  ∀ (s : State) (a : Word) (v : Byte), s.cfg.cgbMode = true →
    s.write 0xFF4F v = .ok { s with cgb := { s.cgb with vbk := BitVec.ofNat 1 v.toNat } } ∧
      s.peek 0xFF4F = .byte (BitVec.ofNat 8 (0xFE + s.cgb.vbk.toNat)) ∧
      (0x8000 ≤ a.toNat → a.toNat ≤ 0x9FFF → s.target a = .vram (s.cgb.vbk.toNat * 0x2000 + (a.toNat - 0x8000))) ∧
      s.write 0xFF70 v = .ok { s with cgb := { s.cgb with svbk := BitVec.ofNat 3 v.toNat } } ∧
      (0xC000 ≤ a.toNat → a.toNat ≤ 0xCFFF → s.target a = .wram (a.toNat - 0xC000)) ∧
      (0xD000 ≤ a.toNat → a.toNat ≤ 0xDFFF →
        s.target a = .wram ((if s.cgb.svbk.toNat = 0 then 1 else s.cgb.svbk.toNat) * 0x1000 + (a.toNat - 0xD000))) ∧
      s.write 0xFF68 v = .ok { s with cgb := { s.cgb with bcps := { auto := v.getLsbD 7, index := BitVec.ofNat 6 v.toNat } } } ∧
      s.peek 0xFF68 = .byte (BitVec.ofNat 8 (0x40 + 128 * s.cgb.bcps.auto.toNat + s.cgb.bcps.index.toNat)) ∧
      s.read 0xFF69 = .ok (s.bgPalByte s.cgb.bcps.index.toNat, s) ∧
      s.write 0xFF6A v = .ok { s with cgb := { s.cgb with ocps := { auto := v.getLsbD 7, index := BitVec.ofNat 6 v.toNat } } } ∧
      s.peek 0xFF6A = .byte (BitVec.ofNat 8 (0x40 + 128 * s.cgb.ocps.auto.toNat + s.cgb.ocps.index.toNat)) ∧
      s.read 0xFF6B = .ok (s.objPalByte s.cgb.ocps.index.toNat, s) ∧
      s.write 0xFF69 v = .ok
        { s with
          bgPal := Memory.write s.bgPal s.cgb.bcps.index.toNat v
          cgb := { s.cgb with
            bcps := { s.cgb.bcps with
              index := if s.cgb.bcps.auto then BitVec.ofNat 6 (s.cgb.bcps.index.toNat + 1) else s.cgb.bcps.index } } } ∧
      s.write 0xFF6B v = .ok
        { s with
          objPal := Memory.write s.objPal s.cgb.ocps.index.toNat v
          cgb := { s.cgb with
            ocps := { s.cgb.ocps with
              index := if s.cgb.ocps.auto then BitVec.ofNat 6 (s.cgb.ocps.index.toNat + 1) else s.cgb.ocps.index } } }

/-- R1700, R1702: what P1 reads, and that a write of P1 or a change of the buttons requests the joypad interrupt exactly
when some line falls. -/
def Obligations.JoypadLines : Prop :=
  ∀ (s : State) (v : Byte) (b : Buttons),
    let line (j : Joypad) (i : Nat) : Bool :=
      let dir := [j.pressed.right, j.pressed.left, j.pressed.up, j.pressed.down].getD i false
      let act := [j.pressed.a, j.pressed.b, j.pressed.select, j.pressed.start].getD i false
      !((!j.sel.getLsbD 0 && dir) || (!j.sel.getLsbD 1 && act))
    let falls (j j' : Joypad) : Prop := ∃ i, i < 4 ∧ line j i = true ∧ line j' i = false
    let after (j' : Joypad) (t : State) : Prop :=
      (falls s.joypad j' → t = { s with joypad := j', ifl := s.ifl ||| 0b10000#5 }) ∧
        (¬falls s.joypad j' → t = { s with joypad := j' })
    (∃ r : Byte, s.peek 0xFF00 = .byte r ∧ (∀ i, i < 4 → r.getLsbD i = line s.joypad i) ∧
      r.getLsbD 4 = s.joypad.sel.getLsbD 0 ∧ r.getLsbD 5 = s.joypad.sel.getLsbD 1 ∧ r.getLsbD 6 = true ∧ r.getLsbD 7 = true) ∧
    (∃ t, s.write 0xFF00 v = .ok t ∧ after { s.joypad with sel := BitVec.ofNat 2 (v.toNat / 16) } t) ∧
    after { s.joypad with pressed := b } (s.setButtons b)

/-- R1720: while a transfer is in progress a free yes or no decides at the end of a step in which time passes (log 13)
whether it ends; ending, SB takes a free byte, SC bit 7 clears and the serial interrupt is requested (log 4). With none in
progress nothing happens. And what a write of SB or SC stores. -/
def Obligations.SerialTransferEnds : Prop :=
  ∀ (s : State) (v : Byte),
    (∀ n, s.serialAdvance n = if n = 0 then s else s.serialEvent) ∧
    (s.serial.busy = false → s.serialEvent = s) ∧
      (s.serial.busy = true →
        s.serialEvent = { s with draws := s.draws + 1 } ∨
          ∃ b : Byte, s.serialEvent =
            { s with serial := { s.serial with sb := b, busy := false }, ifl := s.ifl ||| 0b01000#5, draws := s.draws + 1 }) ∧
      s.write 0xFF01 v = .ok { s with serial := { s.serial with sb := v } } ∧
      s.write 0xFF02 v = .ok
        { s with serial :=
          { sb := s.serial.sb, busy := v.getLsbD 7, fast := if s.cfg.cgbMode then v.getLsbD 1 else s.serial.fast
            internal := v.getLsbD 0 } }

/-- R320: while mapped, the boot ROM is what reads of its range give; writes there are cartridge commands as usual; a
write to BOOT with bit 0 set unmaps it, one without does nothing, and no write maps it again. -/
def Obligations.BootRomOverlay : Prop :=
  ∀ (s : State) (a : Word) (v : Byte),
    let inRange := a.toNat ≤ 0xFF ∨ (s.cfg.hw = .cgb ∧ 0x200 ≤ a.toNat ∧ a.toNat ≤ 0x8FF)
    (s.bootMapped = true → inRange → s.peek a = .byte (s.bootByte a.toNat)) ∧
      (a.toNat ≤ 0x7FFF → s.bootMapped = false ∨ ¬inRange → s.peek a = .byte (s.cart.romByte (s.cart.romIndex a.toNat))) ∧
      (inRange → ∀ t, { s with bootMapped := false }.write a v = .ok t →
        s.write a v = .ok { t with bootMapped := s.bootMapped }) ∧
      (v.getLsbD 0 = true → s.write 0xFF50 v = .ok { s with bootMapped := false }) ∧
      (v.getLsbD 0 = false → s.write 0xFF50 v = .ok s) ∧
      (s.bootMapped = false → ∀ t, s.write a v = .ok t → t.bootMapped = false)

/-- R290: the state without a boot ROM, in both modes and for any cartridge, in the values the spec gives; R280: the state
with one, but for the registers it gives no value, its memories unwritten (log 3). R400-R404, R1800: which images `load`
takes, with which controller, latches and RAM (of a save too long the first bytes, log 23), and which start state it makes,
a given one (log 19) among them. And that reset is the first for the default parameters, with what its registers then read:
the blank cartridge and the buttons, none pressed, are the model's choices (log 2, log 19). -/
def Obligations.ResetValues : Prop :=
  (∀ (cfg : Params) (cart : Cart),
    let s := postBoot cfg cart
    (cfg.cgbMode = false → s.regs.af = 0x01B0 ∧ s.regs.bc = 0x0013 ∧ s.regs.de = 0x00D8 ∧ s.regs.hl = 0x014D) ∧
      (cfg.cgbMode = true → s.regs.af = 0x1180 ∧ s.regs.bc = 0x0000 ∧ s.regs.de = 0xFF56 ∧ s.regs.hl = 0x000D) ∧
      s.sp = 0xFFFE ∧ s.pc = 0x0100 ∧ s.ime = false ∧ s.eiDelay = 0 ∧ s.halted = false ∧ s.haltBug = false ∧
      s.stopped = false ∧ s.fatal = none ∧ s.totalCycles = 0 ∧ s.bootMapped = false ∧
      s.joypad.sel = 0 ∧ s.serial = ⟨0x00, false, false, false⟩ ∧ s.timer = ⟨0xABCC, 0x00, 0x00, 0⟩ ∧ s.ifl = 0x01 ∧
      s.ppu.lcdc = 0x91 ∧ s.ppu.statSel = 0 ∧ s.ppu.scy = 0x00 ∧ s.ppu.scx = 0x00 ∧ s.ppu.lyc = 0x00 ∧ s.ppu.wy = 0x00 ∧
      s.ppu.wx = 0x00 ∧ s.ppu.ly = 0 ∧ s.ppu.dot = 0 ∧ s.ppu.mode = .oamScan ∧ s.dma = 0xFF ∧ s.ppu.bgp = 0xFC ∧
      s.ie = 0x00 ∧ s.cgb.vbk = 0 ∧ s.cgb.svbk = 0 ∧ s.ppu.coinc = false ∧ s.ppu.winLine = 0 ∧
      s.frame = List.replicate 144 (List.replicate 160 (if cfg.cgbMode then 0x7FFF else 0))) ∧
  (∀ (cfg : Params) (cart : Cart),
    let s := powerOn cfg cart
    s.cfg = cfg ∧ s.cart = cart ∧ s.pc = 0x0000 ∧ s.bootMapped = true ∧ s.ime = false ∧ s.eiDelay = 0 ∧ s.halted = false ∧
      s.haltBug = false ∧ s.stopped = false ∧ s.fatal = none ∧ s.refused = none ∧ s.totalCycles = 0 ∧ s.joypad.sel = 0 ∧
      s.serial = ⟨0x00, false, false, false⟩ ∧ s.timer = ⟨0x0000, 0x00, 0x00, 0⟩ ∧ s.ifl = 0x00 ∧ s.ie = 0x00 ∧
      s.ppu.lcdc = 0x00 ∧ s.ppu.statSel = 0 ∧ s.ppu.coinc = false ∧ s.ppu.mode = .hblank ∧ s.ppu.dot = 0 ∧ s.ppu.ly = 0 ∧
      s.ppu.lyc = 0x00 ∧ s.ppu.scy = 0x00 ∧ s.ppu.scx = 0x00 ∧ s.ppu.wy = 0x00 ∧ s.ppu.wx = 0x00 ∧ s.ppu.bgp = 0x00 ∧
      s.ppu.obp0 = 0x00 ∧ s.ppu.obp1 = 0x00 ∧ s.ppu.winLine = 0 ∧ s.dma = 0x00 ∧
      s.cgb = { vbk := 0, svbk := 0, rpHigh := 0, rpLow := 0, bcps := ⟨false, 0⟩, ocps := ⟨false, 0⟩, opri := 0 } ∧
      s.vram = [] ∧ s.wram = [] ∧ s.oam = [] ∧ s.hram = [] ∧ s.bgPal = [] ∧ s.objPal = [] ∧
      s.frame = List.replicate 144 (List.replicate 160 (if cfg.cgbMode then 0x7FFF else 0))) ∧
  (∀ x : LoadArgs,
    let flag := (x.rom.byte 0x143).getLsbD 7
    (¬x.Checked → ∃ e, load x = .error e) ∧
      (x.Checked → x.hw = .cgb → flag = false → load x = .error .cgbCompatibility) ∧
      ∀ row ∈ typeTable, row.1 = x.rom.byte 0x147 → x.Checked → (x.hw = .cgb → flag = true) →
        let size :=
          if row.1 = 0x05 ∨ row.1 = 0x06 then 512
          else if row.2.2.1 then [0, 0x800, 0x2000, 0x8000, 0x20000, 0x10000].getD (x.rom.byte 0x149).toNat 0
          else 0
        let cfg : Params :=
          { hw := x.hw, cgbMode := decide (x.hw = .cgb), gapRead := x.gapRead, videoLock := x.videoLock, mode3 := x.mode3
            bootRom := x.bootRom }
        let saved := if row.2.2.2 then x.saveRam.getD [] else []
        let cart : Cart :=
          { ctrl := row.2.1, battery := row.2.2.2, rom := x.rom.bytes, romLen := x.rom.len
            ram := Memory.ofBytes 0 (saved.take size), ramLen := size }
        (x.bootRom ≠ none → load x = .ok (powerOn cfg cart)) ∧
          (x.bootRom = none → x.postBoot = none → load x = .ok (postBoot cfg cart)) ∧
          (∀ r, x.bootRom = none → x.postBoot = some r →
            load x = .ok { r with cfg := cfg, cart := cart, bootMapped := false })) ∧
  let s := State.reset
  s = postBoot Params.default Cart.blank ∧ s.cfg.cgbMode = false ∧
    s.peek 0xFF00 = .byte 0xCF ∧ s.peek 0xFF02 = .byte 0x7E ∧ s.peek 0xFF04 = .byte 0xAB ∧ s.peek 0xFF07 = .byte 0xF8 ∧
    s.peek 0xFF0F = .byte 0xE1 ∧ s.peek 0xFF40 = .byte 0x91 ∧ s.peek 0xFF44 = .byte 0x00 ∧ s.peek 0xFF46 = .byte 0xFF ∧
    s.peek 0xFF47 = .byte 0xFC ∧ s.peek 0xFFFF = .byte 0x00
end

