-- ==== Sys2Proof/Laws/Memory.lean ====
section
/-! SUPPORT. The laws of stored bytes: read after write, and that a write keeps the canonical form and the size. -/

namespace Sys2Proof.Machine

/-- A read after a write to the same offset gives the byte written. -/
theorem Memory.find?_write_self (m : Memory) (k : Nat) (v : Byte) : Memory.find? (Memory.write m k v) k = some v := by
  induction m with
  | nil => simp [Memory.write, Memory.find?]
  | cons c m ih =>
    obtain ⟨j, b⟩ := c
    unfold Memory.write
    split
    · simp [Memory.find?]
    · split
      · simp [Memory.find?]
      · simp [Memory.find?, *]

/-- A write leaves every other offset alone. -/
theorem Memory.find?_write_ne (m : Memory) (k i : Nat) (v : Byte) (h : i ≠ k) :
    Memory.find? (Memory.write m k v) i = Memory.find? m i := by
  induction m with
  | nil => simp [Memory.write, Memory.find?, h]
  | cons c m ih =>
    obtain ⟨j, b⟩ := c
    unfold Memory.write
    split
    · simp [Memory.find?, h]
    · split
      · subst j; simp [Memory.find?, h]
      · simp [Memory.find?, ih]

/-- What a write leaves at each offset. -/
theorem Memory.get_write (m : Memory) (init : Nat → Byte) (k i : Nat) (v : Byte) :
    Memory.get (Memory.write m k v) init i = if i = k then v else Memory.get m init i := by
  unfold Memory.get
  split
  · subst i; simp [Memory.find?_write_self]
  · rw [Memory.find?_write_ne _ _ _ _ ‹_›]

@[simp] theorem Memory.get_write_self (m : Memory) (init : Nat → Byte) (k : Nat) (v : Byte) :
    Memory.get (Memory.write m k v) init k = v := by simp [Memory.get_write]

theorem Memory.get_write_ne (m : Memory) (init : Nat → Byte) (k i : Nat) (v : Byte) (h : i ≠ k) :
    Memory.get (Memory.write m k v) init i = Memory.get m init i := by simp [Memory.get_write, h]

/-- A write keeps a lower bound of the offsets. -/
theorem Memory.above_write (m : Memory) (j k : Nat) (v : Byte) (hm : Memory.above j m = true) (hk : j < k) :
    Memory.above j (Memory.write m k v) = true := by
  cases m with
  | nil => simpa [Memory.write, Memory.above] using hk
  | cons c m =>
    obtain ⟨i, b⟩ := c
    unfold Memory.write
    split
    · simpa [Memory.above] using hk
    · split
      · simpa [Memory.above] using hk
      · simpa [Memory.above] using hm

/-- A write keeps the canonical form. -/
theorem Memory.wf_write (m : Memory) (k : Nat) (v : Byte) (h : Memory.wf m = true) :
    Memory.wf (Memory.write m k v) = true := by
  induction m with
  | nil => rfl
  | cons c m ih =>
    obtain ⟨j, b⟩ := c
    simp only [Memory.wf, Bool.and_eq_true] at h
    unfold Memory.write
    split
    · simp only [Memory.wf, Memory.above, Bool.and_eq_true, decide_eq_true_eq]
      exact ⟨‹_›, h⟩
    · split
      · subst j; simpa [Memory.wf] using h
      · simp only [Memory.wf, Bool.and_eq_true]
        exact ⟨Memory.above_write _ _ _ _ h.1 (by omega), ih h.2⟩

/-- A write below the size keeps every offset below it. -/
theorem Memory.below_write (n : Nat) (m : Memory) (k : Nat) (v : Byte) (hm : Memory.below n m = true) (hk : k < n) :
    Memory.below n (Memory.write m k v) = true := by
  induction m with
  | nil => simpa [Memory.write, Memory.below] using hk
  | cons c m ih =>
    obtain ⟨j, b⟩ := c
    simp only [Memory.below, List.all_cons, Bool.and_eq_true, decide_eq_true_eq] at hm ih ⊢
    unfold Memory.write
    split
    · simpa using ⟨hk, hm.1, by simpa using hm.2⟩
    · split
      · simpa using ⟨hk, by simpa using hm.2⟩
      · simpa using ⟨hm.1, by simpa using ih (by simpa using hm.2)⟩

/-- Bytes laid out from an offset on are in canonical form. -/
theorem Memory.wf_ofBytes (k : Nat) (bs : List Byte) : Memory.wf (Memory.ofBytes k bs) = true := by
  induction bs generalizing k with
  | nil => rfl
  | cons b bs ih =>
    cases bs with
    | nil => rfl
    | cons c bs =>
      have h := ih (k + 1)
      simp only [Memory.ofBytes] at h ⊢
      rw [Memory.wf, h]
      simp [Memory.above]

/-- The memories of the state after reset are in canonical form. -/
theorem State.reset_memWf : State.reset.MemWf := by
  refine ⟨?_, ?_, ?_, ?_, ?_, ?_, ?_⟩ <;> rfl

end Sys2Proof.Machine
end

