-- ==== Sys2Proof/Laws/Bus.lean ====
section
/-! SUPPORT. The bus does not look at the CPU's own part of the state, a read changes nothing but the draw counter, and
everything a write can do. -/

namespace Sys2Proof.Machine

/-- The state `s` with the CPU's own part of `c`: registers, SP, pc, IME, the delay, the low-power bits, the marks, the
cycle count. -/
def State.withCpu (s c : State) : State :=
  { s with
    regs := c.regs, sp := c.sp, pc := c.pc, ime := c.ime, eiDelay := c.eiDelay, halted := c.halted
    haltBug := c.haltBug, stopped := c.stopped, fatal := c.fatal, refused := c.refused, cycles := c.cycles }

@[simp] theorem State.withCpu_self (s : State) : s.withCpu s = s := rfl

/-- Advancing pc is a change of the CPU's own part. -/
theorem State.advance_eq (s : State) (n : Nat) : s.advance n = s.withCpu (s.advance n) := rfl

/-! ### Reads -/

/-- The routing looks at the parameters, the boot overlay, the cartridge and the CGB bank registers only. -/
theorem State.target_congr {s t : State} (a : Word) (h1 : t.cfg = s.cfg) (h2 : t.bootMapped = s.bootMapped)
    (h3 : t.cart.ctrl = s.cart.ctrl) (h4 : t.cart.romLen = s.cart.romLen) (h5 : t.cart.ramLen = s.cart.ramLen)
    (h6 : t.cgb = s.cgb) : t.target a = s.target a := by
  have hr (n : Nat) : t.cart.romIndex n = s.cart.romIndex n := by unfold Cart.romIndex; rw [h3, h4]
  have he (n : Nat) : t.cart.extTarget n = s.cart.extTarget n := by unfold Cart.extTarget; rw [h3, h5]
  have hv : t.vramBank = s.vramBank := by unfold State.vramBank; rw [h1, h6]
  have hw (n : Nat) : t.wramOffset n = s.wramOffset n := by unfold State.wramOffset State.wramBank; rw [h1, h6]
  unfold State.target
  simp only [h1, h2, hr, he, hv, hw]

@[simp] theorem State.target_withCpu (s c : State) (a : Word) : (s.withCpu c).target a = s.target a :=
  State.target_congr a rfl rfl rfl rfl rfl rfl

@[simp] theorem State.target_draws (s : State) (n : Nat) (a : Word) : { s with draws := n }.target a = s.target a :=
  State.target_congr a rfl rfl rfl rfl rfl rfl

@[simp] theorem State.readTarget_withCpu (s c : State) (t : Target) : (s.withCpu c).readTarget t = s.readTarget t := by
  cases t with
  | io r => cases r <;> rfl
  | _ => rfl

@[simp] theorem State.readTarget_draws (s : State) (n : Nat) (t : Target) :
    { s with draws := n }.readTarget t = s.readTarget t := by
  cases t with
  | io r => cases r <;> rfl
  | _ => rfl

@[simp] theorem State.peek_withCpu (s c : State) (a : Word) : (s.withCpu c).peek a = s.peek a := by
  simp [State.peek]

@[simp] theorem State.peek_advance (s : State) (n : Nat) (a : Word) : (s.advance n).peek a = s.peek a := by
  rw [State.advance_eq, State.peek_withCpu]

@[simp] theorem State.peek_draws (s : State) (n : Nat) (a : Word) : { s with draws := n }.peek a = s.peek a := by
  simp [State.peek]

/-- The three things a read can do. -/
theorem State.read_eq (s : State) (a : Word) :
    (∃ b, s.peek a = .byte b ∧ s.read a = .ok (b, s)) ∨
      (s.peek a = .draw ∧ s.read a = .ok (Config.freeByte s.draws, { s with draws := s.draws + 1 })) ∨
      ∃ e, s.peek a = .refuse e ∧ s.read a = .error e := by
  unfold State.read
  cases h : s.peek a with
  | byte b => exact .inl ⟨b, rfl, rfl⟩
  | draw => exact .inr (.inl ⟨rfl, rfl⟩)
  | refuse e => exact .inr (.inr ⟨e, rfl, rfl⟩)

/-- A read changes nothing but the draw counter. -/
theorem State.read_ok {s u : State} {a : Word} {b : Byte} (h : s.read a = .ok (b, u)) : u = { s with draws := u.draws } := by
  rcases s.read_eq a with ⟨b', -, h'⟩ | ⟨-, h'⟩ | ⟨e, -, h'⟩ <;> rw [h'] at h <;> cases h <;> rfl

/-- A read does not look at the CPU's own part. -/
theorem State.read_withCpu (s c : State) (a : Word) :
    (s.withCpu c).read a = (s.read a).map fun x => (x.1, x.2.withCpu c) := by
  unfold State.read
  rw [State.peek_withCpu]
  cases s.peek a <;> rfl

/-! ### Writes -/

/-- The OAM DMA copy changes nothing but OAM and the draw counter. -/
theorem State.dmaCopy_ok (v : Byte) (n i : Nat) {s u : State} (h : State.dmaCopy v n i s = .ok u) :
    u = { s with oam := u.oam, draws := u.draws } := by
  induction n generalizing i s with
  | zero => cases h; rfl
  | succ n ih =>
    unfold State.dmaCopy at h
    cases hr : s.read (word v (BitVec.ofNat 8 i)) with
    | error e => rw [hr] at h; cases h
    | ok x =>
      obtain ⟨b, t⟩ := x
      rw [hr] at h
      have := State.read_ok hr
      rw [ih (i + 1) h, this]
      rfl

/-- The OAM DMA copy does not look at the CPU's own part. -/
theorem State.dmaCopy_withCpu (v : Byte) (n i : Nat) (s c : State) :
    State.dmaCopy v n i (s.withCpu c) = (State.dmaCopy v n i s).map (·.withCpu c) := by
  induction n generalizing i s with
  | zero => rfl
  | succ n ih =>
    unfold State.dmaCopy
    rw [State.read_withCpu]
    cases s.read (word v (BitVec.ofNat 8 i)) with
    | error e => rfl
    | ok x => exact ih (i + 1) (x.2.setOam i x.1)

/-- A write to an I/O register does not look at the CPU's own part. -/
theorem State.writeIo_withCpu (s c : State) (r : IoReg) (v : Byte) :
    (s.withCpu c).writeIo r v = (s.writeIo r v).map (·.withCpu c) := by
  cases r
  case div => simp only [State.writeIo, State.divReset, State.setTimer]; rfl
  case tac => simp only [State.writeIo, State.writeTac, State.setTimer]; rfl
  case lcdc =>
    simp only [State.writeIo, State.writeLcdc, Except.map]
    refine congrArg Except.ok ?_
    rw [apply_ite (State.withCpu · c), apply_ite (State.withCpu · c)]
    rfl
  case lyc =>
    simp only [State.writeIo, State.writeLyc, Except.map]
    refine congrArg Except.ok ?_
    rw [apply_ite (State.withCpu · c)]
    rfl
  case key1 => simp only [State.writeIo]; split <;> rfl
  case boot =>
    simp only [State.writeIo, Except.map]
    refine congrArg Except.ok ?_
    rw [apply_ite (State.withCpu · c)]
    rfl
  all_goals rfl

/-- A write does not look at the CPU's own part. -/
theorem State.write_withCpu (s c : State) (a : Word) (v : Byte) :
    (s.withCpu c).write a v = (s.write a v).map (·.withCpu c) := by
  unfold State.write
  rw [State.target_withCpu]
  cases s.target a with
  | vram i =>
    simp only [State.writeTarget, State.lockedWrite, Except.map]
    refine congrArg Except.ok ?_
    rw [apply_ite (State.withCpu · c)]
    show (if s.vramBusy then (match s.cfg.videoLock with | .free => _ | .locked => _ | .unknown => _) else _) = _
    cases s.cfg.videoLock <;> [rfl; rfl; skip]
    simp only [apply_ite (State.withCpu · c)]
    rfl
  | oam i =>
    simp only [State.writeTarget, State.lockedWrite, Except.map]
    refine congrArg Except.ok ?_
    rw [apply_ite (State.withCpu · c)]
    show (if s.oamBusy then (match s.cfg.videoLock with | .free => _ | .locked => _ | .unknown => _) else _) = _
    cases s.cfg.videoLock <;> [rfl; rfl; skip]
    simp only [apply_ite (State.withCpu · c)]
    rfl
  | ext t =>
    simp only [State.writeTarget]
    show (match s.cart.writeExt v t with | .ok c' => _ | .error u => _) = _
    cases s.cart.writeExt v t <;> rfl
  | io r =>
    by_cases h : r = .dma
    · subst h
      simp only [State.writeTarget, State.writeDma]
      split
      · exact State.dmaCopy_withCpu v 160 0 { s with dma := v } c
      · rfl
    · have hw (t : State) : t.writeTarget a v (.io r) = t.writeIo r v := by
        cases r <;> first | rfl | exact absurd rfl h
      rw [hw, hw, State.writeIo_withCpu]
  | _ => rfl

/-- A write leaves the CPU's own part as it was. -/
theorem State.write_cpu {s u : State} {a : Word} {v : Byte} (h : s.write a v = .ok u) : u = u.withCpu s := by
  have := s.write_withCpu s a v
  rw [State.withCpu_self, h] at this
  exact Except.ok.inj this

/-- A push does not look at the CPU's own part but SP. -/
theorem State.push16_eq (s : State) (v : Word) :
    s.push16 v =
      (match s.write (s.sp - 1) (hi8 v) with
        | .error e => .error e
        | .ok u =>
          match u.write (s.sp - 2) (lo8 v) with
          | .error e => .error e
          | .ok w => .ok { w with sp := s.sp - 2 }) := by
  have hsp : s.sp - 1 - 1 = s.sp - 2 := by rw [BitVec.sub_sub]; rfl
  have h1 := s.write_withCpu { s with sp := s.sp - 1 } (s.sp - 1) (hi8 v)
  unfold State.push16
  show (do
    let t ← (s.withCpu { s with sp := s.sp - 1 }).write (s.sp - 1) (hi8 v)
    State.write { t with sp := t.sp - 1 } (t.sp - 1) (lo8 v)) = _
  rw [h1]
  cases hw : s.write (s.sp - 1) (hi8 v) with
  | error e => rfl
  | ok u =>
    show State.write { u.withCpu { s with sp := s.sp - 1 } with sp := s.sp - 1 - 1 } (s.sp - 1 - 1) (lo8 v) = _
    rw [hsp]
    show (u.withCpu { s with sp := s.sp - 2 }).write (s.sp - 2) (lo8 v) = _
    rw [State.write_withCpu]
    simp only
    cases hw2 : u.write (s.sp - 2) (lo8 v) with
    | error e => rfl
    | ok w =>
      have e1 := State.write_cpu hw
      have e2 := State.write_cpu hw2
      simp only [Except.map]
      rw [e2, e1]
      rfl

/-- A pop as its two reads. -/
theorem State.pop16_eq (s : State) :
    s.pop16 =
      (match s.read s.sp with
        | .error e => .error e
        | .ok (lo, u) =>
          match u.read (s.sp + 1) with
          | .error e => .error e
          | .ok (hi, w) => .ok (hi ++ lo, { w with sp := s.sp + 2 })) := by
  have hsp : s.sp + 1 + 1 = s.sp + 2 := by rw [BitVec.add_assoc]; rfl
  unfold State.pop16
  cases hr : s.read s.sp with
  | error e => rfl
  | ok x =>
    obtain ⟨lo, u⟩ := x
    have hu := State.read_ok hr
    show (do
      let (hi, t) ← State.read { u with sp := u.sp + 1 } (u.sp + 1)
      Except.ok (word hi lo, { t with sp := t.sp + 1 })) = _
    have hus : u.sp = s.sp := by rw [hu]
    rw [hus]
    have h2 := u.read_withCpu { u with sp := s.sp + 1 } (s.sp + 1)
    show (do
      let (hi, t) ← (u.withCpu { u with sp := s.sp + 1 }).read (s.sp + 1)
      Except.ok (word hi lo, { t with sp := t.sp + 1 })) = _
    rw [h2]
    simp only
    cases hr2 : u.read (s.sp + 1) with
    | error e => rfl
    | ok y =>
      obtain ⟨hi, w⟩ := y
      have hw := State.read_ok hr2
      show Except.ok (word hi lo, { w.withCpu { u with sp := s.sp + 1 } with sp := s.sp + 1 + 1 }) = _
      rw [hsp, hw]
      rfl

/-! ### Everything a write can do -/

/-- A property the OAM DMA copy keeps. -/
theorem State.dmaCopy_induct {P : State → Prop} (hdraw : ∀ s n, P s → P { s with draws := n })
    (hset : ∀ s i b, i < 160 → P s → P (s.setOam i b)) (v : Byte) (n i : Nat) {s u : State} (hn : i + n ≤ 160)
    (h : State.dmaCopy v n i s = .ok u) (hs : P s) : P u := by
  induction n generalizing i s with
  | zero => cases h; exact hs
  | succ n ih =>
    unfold State.dmaCopy at h
    cases hr : s.read (word v (BitVec.ofNat 8 i)) with
    | error e => rw [hr] at h; cases h
    | ok x =>
      obtain ⟨b, t⟩ := x
      rw [hr] at h
      have ht := State.read_ok hr
      exact ih (i + 1) (by omega) h (hset _ _ _ (by omega) (ht ▸ hdraw _ _ hs))

/-- Everything a CPU write that is not refused can do. -/
theorem State.write_cases {P : State → Prop} {s u : State} {a : Word} {v : Byte} (h : s.write a v = .ok u)
    (ctrl : ((∃ i, s.target a = .rom i) ∨ ∃ i, s.target a = .boot i) →
      P { s with cart := { s.cart with ctrl := s.cart.ctrl.command a.toNat v } })
    (same : ∀ n, P { s with draws := n })
    (vram : ∀ i n, s.target a = .vram i → P { s with vram := Memory.write s.vram i v, draws := n })
    (ram : ∀ i w, (s.target a = .ext (.ram i) ∨ s.target a = .ext (.nibble i)) →
      P { s with cart := { s.cart with ram := Memory.write s.cart.ram i w } })
    (wram : ∀ i, s.target a = .wram i → P { s with wram := Memory.write s.wram i v })
    (oam : ∀ i n, s.target a = .oam i → P { s with oam := Memory.write s.oam i v, draws := n })
    (hram : ∀ i, s.target a = .hram i → P { s with hram := Memory.write s.hram i v })
    (ie : s.target a = .ie → P { s with ie := v })
    (io : ∀ r w, s.target a = .io r → r ≠ .dma → s.writeIo r v = .ok w → P w)
    (dma : ∀ w, s.target a = .io .dma → v.toNat ≤ 0xDF → State.dmaCopy v 160 0 { s with dma := v } = .ok w → P w) :
    P u := by
  unfold State.write at h
  cases ht : s.target a with
  | boot i => rw [ht] at h; cases h; exact ctrl (.inr ⟨i, ht⟩)
  | rom i => rw [ht] at h; cases h; exact ctrl (.inl ⟨i, ht⟩)
  | vram i =>
    rw [ht] at h
    simp only [State.writeTarget, State.lockedWrite, Except.ok.injEq] at h
    subst h
    split
    · cases s.cfg.videoLock
      · exact vram i s.draws ht
      · exact same s.draws
      · show P (if _ then _ else _)
        split
        · exact vram i _ ht
        · exact same _
    · exact vram i s.draws ht
  | ext t =>
    rw [ht] at h
    cases t with
    | ram i => cases h; exact ram i v (.inl ht)
    | nibble i => cases h; exact ram i _ (.inr ht)
    | closed => cases h; exact same s.draws
    | clock => cases h
  | wram i => rw [ht] at h; cases h; exact wram i ht
  | oam i =>
    rw [ht] at h
    simp only [State.writeTarget, State.lockedWrite, Except.ok.injEq] at h
    subst h
    split
    · cases s.cfg.videoLock
      · exact oam i s.draws ht
      · exact same s.draws
      · show P (if _ then _ else _)
        split
        · exact oam i _ ht
        · exact same _
    · exact oam i s.draws ht
  | gap => rw [ht] at h; cases h; exact same s.draws
  | io r =>
    rw [ht] at h
    by_cases hr : r = .dma
    · subst hr
      simp only [State.writeTarget, State.writeDma] at h
      split at h
      · exact dma _ ht ‹_› h
      · cases h
    · refine io r u ht hr ?_
      cases r <;> first | exact h | exact absurd rfl hr
  | unmapped => rw [ht] at h; cases h; exact same s.draws
  | hram i => rw [ht] at h; cases h; exact hram i ht
  | ie => rw [ht] at h; cases h; exact ie ht

/-- A target in the external RAM window is what the cartridge makes of some offset. -/
theorem State.target_ext {s : State} {a : Word} {t : ExtTarget} (h : s.target a = .ext t) :
    ∃ o, s.cart.extTarget o = t := by
  unfold State.target at h
  simp only at h
  repeat' split at h
  all_goals first | exact ⟨_, Target.ext.inj h⟩ | cases h

/-- One cartridge's external RAM is never both of bytes and of MBC2's cells. -/
theorem Cart.extTarget_not_mixed {c : Cart} {o o' i j : Nat} (h : c.extTarget o = .ram i) : c.extTarget o' ≠ .nibble j := by
  unfold Cart.extTarget at h ⊢
  cases hc : c.ctrl with
  | mbc2 en romb => rw [hc] at h; cases en <;> cases h
  | _ =>
    unfold ramBank
    dsimp only
    repeat' split
    all_goals simp

/-- A write to plain RAM: what it stores, where it is read back, and that nothing else of the bus changes. -/
theorem State.write_plain {s : State} {a : Word} (v : Byte) (h : s.PlainRam (s.target a)) :
    ∃ u, s.write a v = .ok u ∧ (∀ b, u.target b = s.target b) ∧ u.readTarget (s.target a) = .byte v ∧
      (∀ b, s.target b ≠ s.target a → u.readTarget (s.target b) = s.readTarget (s.target b)) ∧ u.draws = s.draws ∧
      u = { s with
        vram := u.vram, wram := u.wram, oam := u.oam, hram := u.hram, ie := u.ie
        cart := { s.cart with ram := u.cart.ram } } := by
  unfold State.write
  cases ht : s.target a with
  | vram i =>
    rw [ht] at h
    refine ⟨{ s with vram := Memory.write s.vram i v }, ?_, fun b => State.target_congr b rfl rfl rfl rfl rfl rfl, ?_, ?_, rfl, rfl⟩
    · simp only [State.writeTarget, State.lockedWrite]
      rcases h with h | h <;> simp [h]
    · show lockedRead s.cfg.videoLock s.vramBusy _ = _
      rcases h with h | h <;> simp [h, lockedRead, Video.vramByte, State.video]
    · intro b hne
      revert hne
      cases s.target b with
      | vram j =>
        intro hne
        have hij : j ≠ i := fun e => hne (e ▸ rfl)
        show lockedRead _ _ (Memory.get (Memory.write s.vram i v) _ j) = lockedRead _ _ (Memory.get s.vram _ j)
        rw [Memory.get_write_ne _ _ _ _ _ hij]
        rfl
      | io r => intro _; cases r <;> rfl
      | _ => intro _; rfl
  | oam i =>
    rw [ht] at h
    refine ⟨{ s with oam := Memory.write s.oam i v }, ?_, fun b => State.target_congr b rfl rfl rfl rfl rfl rfl, ?_, ?_, rfl, rfl⟩
    · simp only [State.writeTarget, State.lockedWrite]
      rcases h with h | h <;> simp [h, State.setOam]
    · show lockedRead s.cfg.videoLock s.oamBusy _ = _
      rcases h with h | h <;> simp [h, lockedRead, Video.oamByte, State.video]
    · intro b hne
      revert hne
      cases s.target b with
      | oam j =>
        intro hne
        have hij : j ≠ i := fun e => hne (e ▸ rfl)
        show lockedRead _ _ (Memory.get (Memory.write s.oam i v) _ j) = lockedRead _ _ (Memory.get s.oam _ j)
        rw [Memory.get_write_ne _ _ _ _ _ hij]
        rfl
      | io r => intro _; cases r <;> rfl
      | _ => intro _; rfl
  | ext t =>
    rw [ht] at h
    cases t with
    | ram i =>
      refine ⟨{ s with cart := { s.cart with ram := Memory.write s.cart.ram i v } }, rfl,
        fun b => State.target_congr b rfl rfl rfl rfl rfl rfl, ?_, ?_, rfl, rfl⟩
      · show ReadResult.byte (Memory.get (Memory.write s.cart.ram i v) _ i) = _
        rw [Memory.get_write_self]
      · intro b hne
        cases hb : s.target b with
        | ext t =>
          cases t with
          | ram j =>
            have hij : j ≠ i := fun e => hne (hb.trans (e ▸ rfl))
            show ReadResult.byte (Memory.get (Memory.write s.cart.ram i v) _ j) = .byte (Memory.get s.cart.ram _ j)
            rw [Memory.get_write_ne _ _ _ _ _ hij]
          | nibble j =>
            obtain ⟨o, ho⟩ := State.target_ext ht
            obtain ⟨o', ho'⟩ := State.target_ext hb
            exact absurd ho' (Cart.extTarget_not_mixed ho)
          | _ => rfl
        | io r => cases r <;> rfl
        | _ => rfl
    | _ => exact h.elim
  | wram i =>
    refine ⟨{ s with wram := Memory.write s.wram i v }, rfl, fun b => State.target_congr b rfl rfl rfl rfl rfl rfl, ?_, ?_, rfl, rfl⟩
    · show ReadResult.byte (Memory.get (Memory.write s.wram i v) _ i) = _
      rw [Memory.get_write_self]
    · intro b hne
      revert hne
      cases s.target b with
      | wram j =>
        intro hne
        have hij : j ≠ i := fun e => hne (e ▸ rfl)
        show ReadResult.byte (Memory.get (Memory.write s.wram i v) _ j) = .byte (Memory.get s.wram _ j)
        rw [Memory.get_write_ne _ _ _ _ _ hij]
      | io r => intro _; cases r <;> rfl
      | _ => intro _; rfl
  | hram i =>
    refine ⟨{ s with hram := Memory.write s.hram i v }, rfl, fun b => State.target_congr b rfl rfl rfl rfl rfl rfl, ?_, ?_, rfl, rfl⟩
    · show ReadResult.byte (Memory.get (Memory.write s.hram i v) _ i) = _
      rw [Memory.get_write_self]
    · intro b hne
      revert hne
      cases s.target b with
      | hram j =>
        intro hne
        have hij : j ≠ i := fun e => hne (e ▸ rfl)
        show ReadResult.byte (Memory.get (Memory.write s.hram i v) _ j) = .byte (Memory.get s.hram _ j)
        rw [Memory.get_write_ne _ _ _ _ _ hij]
      | io r => intro _; cases r <;> rfl
      | _ => intro _; rfl
  | ie =>
    refine ⟨{ s with ie := v }, rfl, fun b => State.target_congr b rfl rfl rfl rfl rfl rfl, rfl, ?_, rfl, rfl⟩
    intro b hne
    revert hne
    cases s.target b with
    | ie => intro hne; exact absurd rfl hne
    | io r => intro _; cases r <;> rfl
    | _ => intro _; rfl
  | _ => rw [ht] at h; exact h.elim

end Sys2Proof.Machine
end

