-- ==== Sys2Proof/Laws/State.lean ====
section
/-! SUPPORT. One lemma per field per named update of the state, each true by `rfl`: no later proof unfolds a record
update. -/

namespace Sys2Proof.Machine

/-! `State.advance` -/

@[simp] theorem State.advance_cfg (s : State) (n : Nat) : (s.advance n).cfg = s.cfg := rfl
@[simp] theorem State.advance_regs (s : State) (n : Nat) : (s.advance n).regs = s.regs := rfl
@[simp] theorem State.advance_sp (s : State) (n : Nat) : (s.advance n).sp = s.sp := rfl
@[simp] theorem State.advance_pc (s : State) (n : Nat) : (s.advance n).pc = s.operandAddr + BitVec.ofNat 16 (n - 1) := rfl
@[simp] theorem State.advance_ime (s : State) (n : Nat) : (s.advance n).ime = s.ime := rfl
@[simp] theorem State.advance_eiDelay (s : State) (n : Nat) : (s.advance n).eiDelay = s.eiDelay := rfl
@[simp] theorem State.advance_halted (s : State) (n : Nat) : (s.advance n).halted = s.halted := rfl
@[simp] theorem State.advance_haltBug (s : State) (n : Nat) : (s.advance n).haltBug = false := rfl
@[simp] theorem State.advance_stopped (s : State) (n : Nat) : (s.advance n).stopped = s.stopped := rfl
@[simp] theorem State.advance_fatal (s : State) (n : Nat) : (s.advance n).fatal = s.fatal := rfl
@[simp] theorem State.advance_refused (s : State) (n : Nat) : (s.advance n).refused = s.refused := rfl
@[simp] theorem State.advance_cycles (s : State) (n : Nat) : (s.advance n).cycles = s.cycles := rfl
@[simp] theorem State.advance_totalCycles (s : State) (n : Nat) : (s.advance n).totalCycles = s.totalCycles := rfl
@[simp] theorem State.advance_vram (s : State) (n : Nat) : (s.advance n).vram = s.vram := rfl
@[simp] theorem State.advance_wram (s : State) (n : Nat) : (s.advance n).wram = s.wram := rfl
@[simp] theorem State.advance_oam (s : State) (n : Nat) : (s.advance n).oam = s.oam := rfl
@[simp] theorem State.advance_hram (s : State) (n : Nat) : (s.advance n).hram = s.hram := rfl
@[simp] theorem State.advance_bgPal (s : State) (n : Nat) : (s.advance n).bgPal = s.bgPal := rfl
@[simp] theorem State.advance_objPal (s : State) (n : Nat) : (s.advance n).objPal = s.objPal := rfl
@[simp] theorem State.advance_bootMapped (s : State) (n : Nat) : (s.advance n).bootMapped = s.bootMapped := rfl
@[simp] theorem State.advance_cart (s : State) (n : Nat) : (s.advance n).cart = s.cart := rfl
@[simp] theorem State.advance_ifl (s : State) (n : Nat) : (s.advance n).ifl = s.ifl := rfl
@[simp] theorem State.advance_ie (s : State) (n : Nat) : (s.advance n).ie = s.ie := rfl
@[simp] theorem State.advance_timer (s : State) (n : Nat) : (s.advance n).timer = s.timer := rfl
@[simp] theorem State.advance_ppu (s : State) (n : Nat) : (s.advance n).ppu = s.ppu := rfl
@[simp] theorem State.advance_dma (s : State) (n : Nat) : (s.advance n).dma = s.dma := rfl
@[simp] theorem State.advance_joypad (s : State) (n : Nat) : (s.advance n).joypad = s.joypad := rfl
@[simp] theorem State.advance_serial (s : State) (n : Nat) : (s.advance n).serial = s.serial := rfl
@[simp] theorem State.advance_cgb (s : State) (n : Nat) : (s.advance n).cgb = s.cgb := rfl
@[simp] theorem State.advance_draws (s : State) (n : Nat) : (s.advance n).draws = s.draws := rfl

/-! `State.cost` -/

@[simp] theorem State.cost_cfg (s : State) (n : Nat) : (s.cost n).cfg = s.cfg := rfl
@[simp] theorem State.cost_regs (s : State) (n : Nat) : (s.cost n).regs = s.regs := rfl
@[simp] theorem State.cost_sp (s : State) (n : Nat) : (s.cost n).sp = s.sp := rfl
@[simp] theorem State.cost_pc (s : State) (n : Nat) : (s.cost n).pc = s.pc := rfl
@[simp] theorem State.cost_ime (s : State) (n : Nat) : (s.cost n).ime = s.ime := rfl
@[simp] theorem State.cost_eiDelay (s : State) (n : Nat) : (s.cost n).eiDelay = s.eiDelay := rfl
@[simp] theorem State.cost_halted (s : State) (n : Nat) : (s.cost n).halted = s.halted := rfl
@[simp] theorem State.cost_haltBug (s : State) (n : Nat) : (s.cost n).haltBug = s.haltBug := rfl
@[simp] theorem State.cost_stopped (s : State) (n : Nat) : (s.cost n).stopped = s.stopped := rfl
@[simp] theorem State.cost_fatal (s : State) (n : Nat) : (s.cost n).fatal = s.fatal := rfl
@[simp] theorem State.cost_refused (s : State) (n : Nat) : (s.cost n).refused = s.refused := rfl
@[simp] theorem State.cost_cycles (s : State) (n : Nat) : (s.cost n).cycles = n := rfl
@[simp] theorem State.cost_totalCycles (s : State) (n : Nat) : (s.cost n).totalCycles = s.totalCycles := rfl
@[simp] theorem State.cost_vram (s : State) (n : Nat) : (s.cost n).vram = s.vram := rfl
@[simp] theorem State.cost_wram (s : State) (n : Nat) : (s.cost n).wram = s.wram := rfl
@[simp] theorem State.cost_oam (s : State) (n : Nat) : (s.cost n).oam = s.oam := rfl
@[simp] theorem State.cost_hram (s : State) (n : Nat) : (s.cost n).hram = s.hram := rfl
@[simp] theorem State.cost_bgPal (s : State) (n : Nat) : (s.cost n).bgPal = s.bgPal := rfl
@[simp] theorem State.cost_objPal (s : State) (n : Nat) : (s.cost n).objPal = s.objPal := rfl
@[simp] theorem State.cost_bootMapped (s : State) (n : Nat) : (s.cost n).bootMapped = s.bootMapped := rfl
@[simp] theorem State.cost_cart (s : State) (n : Nat) : (s.cost n).cart = s.cart := rfl
@[simp] theorem State.cost_ifl (s : State) (n : Nat) : (s.cost n).ifl = s.ifl := rfl
@[simp] theorem State.cost_ie (s : State) (n : Nat) : (s.cost n).ie = s.ie := rfl
@[simp] theorem State.cost_timer (s : State) (n : Nat) : (s.cost n).timer = s.timer := rfl
@[simp] theorem State.cost_ppu (s : State) (n : Nat) : (s.cost n).ppu = s.ppu := rfl
@[simp] theorem State.cost_dma (s : State) (n : Nat) : (s.cost n).dma = s.dma := rfl
@[simp] theorem State.cost_joypad (s : State) (n : Nat) : (s.cost n).joypad = s.joypad := rfl
@[simp] theorem State.cost_serial (s : State) (n : Nat) : (s.cost n).serial = s.serial := rfl
@[simp] theorem State.cost_cgb (s : State) (n : Nat) : (s.cost n).cgb = s.cgb := rfl
@[simp] theorem State.cost_draws (s : State) (n : Nat) : (s.cost n).draws = s.draws := rfl

/-! `State.setReg` -/

@[simp] theorem State.setReg_cfg (s : State) (r : Reg8) (v : Byte) : (s.setReg r v).cfg = s.cfg := rfl
@[simp] theorem State.setReg_regs (s : State) (r : Reg8) (v : Byte) : (s.setReg r v).regs = s.regs.set r v := rfl
@[simp] theorem State.setReg_sp (s : State) (r : Reg8) (v : Byte) : (s.setReg r v).sp = s.sp := rfl
@[simp] theorem State.setReg_pc (s : State) (r : Reg8) (v : Byte) : (s.setReg r v).pc = s.pc := rfl
@[simp] theorem State.setReg_ime (s : State) (r : Reg8) (v : Byte) : (s.setReg r v).ime = s.ime := rfl
@[simp] theorem State.setReg_eiDelay (s : State) (r : Reg8) (v : Byte) : (s.setReg r v).eiDelay = s.eiDelay := rfl
@[simp] theorem State.setReg_halted (s : State) (r : Reg8) (v : Byte) : (s.setReg r v).halted = s.halted := rfl
@[simp] theorem State.setReg_haltBug (s : State) (r : Reg8) (v : Byte) : (s.setReg r v).haltBug = s.haltBug := rfl
@[simp] theorem State.setReg_stopped (s : State) (r : Reg8) (v : Byte) : (s.setReg r v).stopped = s.stopped := rfl
@[simp] theorem State.setReg_fatal (s : State) (r : Reg8) (v : Byte) : (s.setReg r v).fatal = s.fatal := rfl
@[simp] theorem State.setReg_refused (s : State) (r : Reg8) (v : Byte) : (s.setReg r v).refused = s.refused := rfl
@[simp] theorem State.setReg_cycles (s : State) (r : Reg8) (v : Byte) : (s.setReg r v).cycles = s.cycles := rfl
@[simp] theorem State.setReg_totalCycles (s : State) (r : Reg8) (v : Byte) : (s.setReg r v).totalCycles = s.totalCycles := rfl
@[simp] theorem State.setReg_vram (s : State) (r : Reg8) (v : Byte) : (s.setReg r v).vram = s.vram := rfl
@[simp] theorem State.setReg_wram (s : State) (r : Reg8) (v : Byte) : (s.setReg r v).wram = s.wram := rfl
@[simp] theorem State.setReg_oam (s : State) (r : Reg8) (v : Byte) : (s.setReg r v).oam = s.oam := rfl
@[simp] theorem State.setReg_hram (s : State) (r : Reg8) (v : Byte) : (s.setReg r v).hram = s.hram := rfl
@[simp] theorem State.setReg_bgPal (s : State) (r : Reg8) (v : Byte) : (s.setReg r v).bgPal = s.bgPal := rfl
@[simp] theorem State.setReg_objPal (s : State) (r : Reg8) (v : Byte) : (s.setReg r v).objPal = s.objPal := rfl
@[simp] theorem State.setReg_bootMapped (s : State) (r : Reg8) (v : Byte) : (s.setReg r v).bootMapped = s.bootMapped := rfl
@[simp] theorem State.setReg_cart (s : State) (r : Reg8) (v : Byte) : (s.setReg r v).cart = s.cart := rfl
@[simp] theorem State.setReg_ifl (s : State) (r : Reg8) (v : Byte) : (s.setReg r v).ifl = s.ifl := rfl
@[simp] theorem State.setReg_ie (s : State) (r : Reg8) (v : Byte) : (s.setReg r v).ie = s.ie := rfl
@[simp] theorem State.setReg_timer (s : State) (r : Reg8) (v : Byte) : (s.setReg r v).timer = s.timer := rfl
@[simp] theorem State.setReg_ppu (s : State) (r : Reg8) (v : Byte) : (s.setReg r v).ppu = s.ppu := rfl
@[simp] theorem State.setReg_dma (s : State) (r : Reg8) (v : Byte) : (s.setReg r v).dma = s.dma := rfl
@[simp] theorem State.setReg_joypad (s : State) (r : Reg8) (v : Byte) : (s.setReg r v).joypad = s.joypad := rfl
@[simp] theorem State.setReg_serial (s : State) (r : Reg8) (v : Byte) : (s.setReg r v).serial = s.serial := rfl
@[simp] theorem State.setReg_cgb (s : State) (r : Reg8) (v : Byte) : (s.setReg r v).cgb = s.cgb := rfl
@[simp] theorem State.setReg_draws (s : State) (r : Reg8) (v : Byte) : (s.setReg r v).draws = s.draws := rfl

/-! `State.setFlags` -/

@[simp] theorem State.setFlags_cfg (s : State) (f : Flags) : (s.setFlags f).cfg = s.cfg := rfl
@[simp] theorem State.setFlags_regs (s : State) (f : Flags) : (s.setFlags f).regs = { s.regs with f := f } := rfl
@[simp] theorem State.setFlags_sp (s : State) (f : Flags) : (s.setFlags f).sp = s.sp := rfl
@[simp] theorem State.setFlags_pc (s : State) (f : Flags) : (s.setFlags f).pc = s.pc := rfl
@[simp] theorem State.setFlags_ime (s : State) (f : Flags) : (s.setFlags f).ime = s.ime := rfl
@[simp] theorem State.setFlags_eiDelay (s : State) (f : Flags) : (s.setFlags f).eiDelay = s.eiDelay := rfl
@[simp] theorem State.setFlags_halted (s : State) (f : Flags) : (s.setFlags f).halted = s.halted := rfl
@[simp] theorem State.setFlags_haltBug (s : State) (f : Flags) : (s.setFlags f).haltBug = s.haltBug := rfl
@[simp] theorem State.setFlags_stopped (s : State) (f : Flags) : (s.setFlags f).stopped = s.stopped := rfl
@[simp] theorem State.setFlags_fatal (s : State) (f : Flags) : (s.setFlags f).fatal = s.fatal := rfl
@[simp] theorem State.setFlags_refused (s : State) (f : Flags) : (s.setFlags f).refused = s.refused := rfl
@[simp] theorem State.setFlags_cycles (s : State) (f : Flags) : (s.setFlags f).cycles = s.cycles := rfl
@[simp] theorem State.setFlags_totalCycles (s : State) (f : Flags) : (s.setFlags f).totalCycles = s.totalCycles := rfl
@[simp] theorem State.setFlags_vram (s : State) (f : Flags) : (s.setFlags f).vram = s.vram := rfl
@[simp] theorem State.setFlags_wram (s : State) (f : Flags) : (s.setFlags f).wram = s.wram := rfl
@[simp] theorem State.setFlags_oam (s : State) (f : Flags) : (s.setFlags f).oam = s.oam := rfl
@[simp] theorem State.setFlags_hram (s : State) (f : Flags) : (s.setFlags f).hram = s.hram := rfl
@[simp] theorem State.setFlags_bgPal (s : State) (f : Flags) : (s.setFlags f).bgPal = s.bgPal := rfl
@[simp] theorem State.setFlags_objPal (s : State) (f : Flags) : (s.setFlags f).objPal = s.objPal := rfl
@[simp] theorem State.setFlags_bootMapped (s : State) (f : Flags) : (s.setFlags f).bootMapped = s.bootMapped := rfl
@[simp] theorem State.setFlags_cart (s : State) (f : Flags) : (s.setFlags f).cart = s.cart := rfl
@[simp] theorem State.setFlags_ifl (s : State) (f : Flags) : (s.setFlags f).ifl = s.ifl := rfl
@[simp] theorem State.setFlags_ie (s : State) (f : Flags) : (s.setFlags f).ie = s.ie := rfl
@[simp] theorem State.setFlags_timer (s : State) (f : Flags) : (s.setFlags f).timer = s.timer := rfl
@[simp] theorem State.setFlags_ppu (s : State) (f : Flags) : (s.setFlags f).ppu = s.ppu := rfl
@[simp] theorem State.setFlags_dma (s : State) (f : Flags) : (s.setFlags f).dma = s.dma := rfl
@[simp] theorem State.setFlags_joypad (s : State) (f : Flags) : (s.setFlags f).joypad = s.joypad := rfl
@[simp] theorem State.setFlags_serial (s : State) (f : Flags) : (s.setFlags f).serial = s.serial := rfl
@[simp] theorem State.setFlags_cgb (s : State) (f : Flags) : (s.setFlags f).cgb = s.cgb := rfl
@[simp] theorem State.setFlags_draws (s : State) (f : Flags) : (s.setFlags f).draws = s.draws := rfl

/-! `State.setHl` -/

@[simp] theorem State.setHl_cfg (s : State) (v : Word) : (s.setHl v).cfg = s.cfg := rfl
@[simp] theorem State.setHl_regs (s : State) (v : Word) : (s.setHl v).regs = { s.regs with h := hi8 v, l := lo8 v } := rfl
@[simp] theorem State.setHl_sp (s : State) (v : Word) : (s.setHl v).sp = s.sp := rfl
@[simp] theorem State.setHl_pc (s : State) (v : Word) : (s.setHl v).pc = s.pc := rfl
@[simp] theorem State.setHl_ime (s : State) (v : Word) : (s.setHl v).ime = s.ime := rfl
@[simp] theorem State.setHl_eiDelay (s : State) (v : Word) : (s.setHl v).eiDelay = s.eiDelay := rfl
@[simp] theorem State.setHl_halted (s : State) (v : Word) : (s.setHl v).halted = s.halted := rfl
@[simp] theorem State.setHl_haltBug (s : State) (v : Word) : (s.setHl v).haltBug = s.haltBug := rfl
@[simp] theorem State.setHl_stopped (s : State) (v : Word) : (s.setHl v).stopped = s.stopped := rfl
@[simp] theorem State.setHl_fatal (s : State) (v : Word) : (s.setHl v).fatal = s.fatal := rfl
@[simp] theorem State.setHl_refused (s : State) (v : Word) : (s.setHl v).refused = s.refused := rfl
@[simp] theorem State.setHl_cycles (s : State) (v : Word) : (s.setHl v).cycles = s.cycles := rfl
@[simp] theorem State.setHl_totalCycles (s : State) (v : Word) : (s.setHl v).totalCycles = s.totalCycles := rfl
@[simp] theorem State.setHl_vram (s : State) (v : Word) : (s.setHl v).vram = s.vram := rfl
@[simp] theorem State.setHl_wram (s : State) (v : Word) : (s.setHl v).wram = s.wram := rfl
@[simp] theorem State.setHl_oam (s : State) (v : Word) : (s.setHl v).oam = s.oam := rfl
@[simp] theorem State.setHl_hram (s : State) (v : Word) : (s.setHl v).hram = s.hram := rfl
@[simp] theorem State.setHl_bgPal (s : State) (v : Word) : (s.setHl v).bgPal = s.bgPal := rfl
@[simp] theorem State.setHl_objPal (s : State) (v : Word) : (s.setHl v).objPal = s.objPal := rfl
@[simp] theorem State.setHl_bootMapped (s : State) (v : Word) : (s.setHl v).bootMapped = s.bootMapped := rfl
@[simp] theorem State.setHl_cart (s : State) (v : Word) : (s.setHl v).cart = s.cart := rfl
@[simp] theorem State.setHl_ifl (s : State) (v : Word) : (s.setHl v).ifl = s.ifl := rfl
@[simp] theorem State.setHl_ie (s : State) (v : Word) : (s.setHl v).ie = s.ie := rfl
@[simp] theorem State.setHl_timer (s : State) (v : Word) : (s.setHl v).timer = s.timer := rfl
@[simp] theorem State.setHl_ppu (s : State) (v : Word) : (s.setHl v).ppu = s.ppu := rfl
@[simp] theorem State.setHl_dma (s : State) (v : Word) : (s.setHl v).dma = s.dma := rfl
@[simp] theorem State.setHl_joypad (s : State) (v : Word) : (s.setHl v).joypad = s.joypad := rfl
@[simp] theorem State.setHl_serial (s : State) (v : Word) : (s.setHl v).serial = s.serial := rfl
@[simp] theorem State.setHl_cgb (s : State) (v : Word) : (s.setHl v).cgb = s.cgb := rfl
@[simp] theorem State.setHl_draws (s : State) (v : Word) : (s.setHl v).draws = s.draws := rfl

/-! `State.alu` -/

@[simp] theorem State.alu_cfg (s : State) (op : AluOp) (b : Byte) : (s.alu op b).cfg = s.cfg := rfl
@[simp] theorem State.alu_regs (s : State) (op : AluOp) (b : Byte) : (s.alu op b).regs = { s.regs with a := (op.apply s.regs.a b s.regs.f.c).1, f := (op.apply s.regs.a b s.regs.f.c).2 } := rfl
@[simp] theorem State.alu_sp (s : State) (op : AluOp) (b : Byte) : (s.alu op b).sp = s.sp := rfl
@[simp] theorem State.alu_pc (s : State) (op : AluOp) (b : Byte) : (s.alu op b).pc = s.pc := rfl
@[simp] theorem State.alu_ime (s : State) (op : AluOp) (b : Byte) : (s.alu op b).ime = s.ime := rfl
@[simp] theorem State.alu_eiDelay (s : State) (op : AluOp) (b : Byte) : (s.alu op b).eiDelay = s.eiDelay := rfl
@[simp] theorem State.alu_halted (s : State) (op : AluOp) (b : Byte) : (s.alu op b).halted = s.halted := rfl
@[simp] theorem State.alu_haltBug (s : State) (op : AluOp) (b : Byte) : (s.alu op b).haltBug = s.haltBug := rfl
@[simp] theorem State.alu_stopped (s : State) (op : AluOp) (b : Byte) : (s.alu op b).stopped = s.stopped := rfl
@[simp] theorem State.alu_fatal (s : State) (op : AluOp) (b : Byte) : (s.alu op b).fatal = s.fatal := rfl
@[simp] theorem State.alu_refused (s : State) (op : AluOp) (b : Byte) : (s.alu op b).refused = s.refused := rfl
@[simp] theorem State.alu_cycles (s : State) (op : AluOp) (b : Byte) : (s.alu op b).cycles = s.cycles := rfl
@[simp] theorem State.alu_totalCycles (s : State) (op : AluOp) (b : Byte) : (s.alu op b).totalCycles = s.totalCycles := rfl
@[simp] theorem State.alu_vram (s : State) (op : AluOp) (b : Byte) : (s.alu op b).vram = s.vram := rfl
@[simp] theorem State.alu_wram (s : State) (op : AluOp) (b : Byte) : (s.alu op b).wram = s.wram := rfl
@[simp] theorem State.alu_oam (s : State) (op : AluOp) (b : Byte) : (s.alu op b).oam = s.oam := rfl
@[simp] theorem State.alu_hram (s : State) (op : AluOp) (b : Byte) : (s.alu op b).hram = s.hram := rfl
@[simp] theorem State.alu_bgPal (s : State) (op : AluOp) (b : Byte) : (s.alu op b).bgPal = s.bgPal := rfl
@[simp] theorem State.alu_objPal (s : State) (op : AluOp) (b : Byte) : (s.alu op b).objPal = s.objPal := rfl
@[simp] theorem State.alu_bootMapped (s : State) (op : AluOp) (b : Byte) : (s.alu op b).bootMapped = s.bootMapped := rfl
@[simp] theorem State.alu_cart (s : State) (op : AluOp) (b : Byte) : (s.alu op b).cart = s.cart := rfl
@[simp] theorem State.alu_ifl (s : State) (op : AluOp) (b : Byte) : (s.alu op b).ifl = s.ifl := rfl
@[simp] theorem State.alu_ie (s : State) (op : AluOp) (b : Byte) : (s.alu op b).ie = s.ie := rfl
@[simp] theorem State.alu_timer (s : State) (op : AluOp) (b : Byte) : (s.alu op b).timer = s.timer := rfl
@[simp] theorem State.alu_ppu (s : State) (op : AluOp) (b : Byte) : (s.alu op b).ppu = s.ppu := rfl
@[simp] theorem State.alu_dma (s : State) (op : AluOp) (b : Byte) : (s.alu op b).dma = s.dma := rfl
@[simp] theorem State.alu_joypad (s : State) (op : AluOp) (b : Byte) : (s.alu op b).joypad = s.joypad := rfl
@[simp] theorem State.alu_serial (s : State) (op : AluOp) (b : Byte) : (s.alu op b).serial = s.serial := rfl
@[simp] theorem State.alu_cgb (s : State) (op : AluOp) (b : Byte) : (s.alu op b).cgb = s.cgb := rfl
@[simp] theorem State.alu_draws (s : State) (op : AluOp) (b : Byte) : (s.alu op b).draws = s.draws := rfl

/-! `State.setOam` -/

@[simp] theorem State.setOam_cfg (s : State) (i : Nat) (v : Byte) : (s.setOam i v).cfg = s.cfg := rfl
@[simp] theorem State.setOam_regs (s : State) (i : Nat) (v : Byte) : (s.setOam i v).regs = s.regs := rfl
@[simp] theorem State.setOam_sp (s : State) (i : Nat) (v : Byte) : (s.setOam i v).sp = s.sp := rfl
@[simp] theorem State.setOam_pc (s : State) (i : Nat) (v : Byte) : (s.setOam i v).pc = s.pc := rfl
@[simp] theorem State.setOam_ime (s : State) (i : Nat) (v : Byte) : (s.setOam i v).ime = s.ime := rfl
@[simp] theorem State.setOam_eiDelay (s : State) (i : Nat) (v : Byte) : (s.setOam i v).eiDelay = s.eiDelay := rfl
@[simp] theorem State.setOam_halted (s : State) (i : Nat) (v : Byte) : (s.setOam i v).halted = s.halted := rfl
@[simp] theorem State.setOam_haltBug (s : State) (i : Nat) (v : Byte) : (s.setOam i v).haltBug = s.haltBug := rfl
@[simp] theorem State.setOam_stopped (s : State) (i : Nat) (v : Byte) : (s.setOam i v).stopped = s.stopped := rfl
@[simp] theorem State.setOam_fatal (s : State) (i : Nat) (v : Byte) : (s.setOam i v).fatal = s.fatal := rfl
@[simp] theorem State.setOam_refused (s : State) (i : Nat) (v : Byte) : (s.setOam i v).refused = s.refused := rfl
@[simp] theorem State.setOam_cycles (s : State) (i : Nat) (v : Byte) : (s.setOam i v).cycles = s.cycles := rfl
@[simp] theorem State.setOam_totalCycles (s : State) (i : Nat) (v : Byte) : (s.setOam i v).totalCycles = s.totalCycles := rfl
@[simp] theorem State.setOam_vram (s : State) (i : Nat) (v : Byte) : (s.setOam i v).vram = s.vram := rfl
@[simp] theorem State.setOam_wram (s : State) (i : Nat) (v : Byte) : (s.setOam i v).wram = s.wram := rfl
@[simp] theorem State.setOam_oam (s : State) (i : Nat) (v : Byte) : (s.setOam i v).oam = Memory.write s.oam i v := rfl
@[simp] theorem State.setOam_hram (s : State) (i : Nat) (v : Byte) : (s.setOam i v).hram = s.hram := rfl
@[simp] theorem State.setOam_bgPal (s : State) (i : Nat) (v : Byte) : (s.setOam i v).bgPal = s.bgPal := rfl
@[simp] theorem State.setOam_objPal (s : State) (i : Nat) (v : Byte) : (s.setOam i v).objPal = s.objPal := rfl
@[simp] theorem State.setOam_bootMapped (s : State) (i : Nat) (v : Byte) : (s.setOam i v).bootMapped = s.bootMapped := rfl
@[simp] theorem State.setOam_cart (s : State) (i : Nat) (v : Byte) : (s.setOam i v).cart = s.cart := rfl
@[simp] theorem State.setOam_ifl (s : State) (i : Nat) (v : Byte) : (s.setOam i v).ifl = s.ifl := rfl
@[simp] theorem State.setOam_ie (s : State) (i : Nat) (v : Byte) : (s.setOam i v).ie = s.ie := rfl
@[simp] theorem State.setOam_timer (s : State) (i : Nat) (v : Byte) : (s.setOam i v).timer = s.timer := rfl
@[simp] theorem State.setOam_ppu (s : State) (i : Nat) (v : Byte) : (s.setOam i v).ppu = s.ppu := rfl
@[simp] theorem State.setOam_dma (s : State) (i : Nat) (v : Byte) : (s.setOam i v).dma = s.dma := rfl
@[simp] theorem State.setOam_joypad (s : State) (i : Nat) (v : Byte) : (s.setOam i v).joypad = s.joypad := rfl
@[simp] theorem State.setOam_serial (s : State) (i : Nat) (v : Byte) : (s.setOam i v).serial = s.serial := rfl
@[simp] theorem State.setOam_cgb (s : State) (i : Nat) (v : Byte) : (s.setOam i v).cgb = s.cgb := rfl
@[simp] theorem State.setOam_draws (s : State) (i : Nat) (v : Byte) : (s.setOam i v).draws = s.draws := rfl

/-! `State.request` -/

@[simp] theorem State.request_cfg (s : State) (k : Nat) : (s.request k).cfg = s.cfg := rfl
@[simp] theorem State.request_regs (s : State) (k : Nat) : (s.request k).regs = s.regs := rfl
@[simp] theorem State.request_sp (s : State) (k : Nat) : (s.request k).sp = s.sp := rfl
@[simp] theorem State.request_pc (s : State) (k : Nat) : (s.request k).pc = s.pc := rfl
@[simp] theorem State.request_ime (s : State) (k : Nat) : (s.request k).ime = s.ime := rfl
@[simp] theorem State.request_eiDelay (s : State) (k : Nat) : (s.request k).eiDelay = s.eiDelay := rfl
@[simp] theorem State.request_halted (s : State) (k : Nat) : (s.request k).halted = s.halted := rfl
@[simp] theorem State.request_haltBug (s : State) (k : Nat) : (s.request k).haltBug = s.haltBug := rfl
@[simp] theorem State.request_stopped (s : State) (k : Nat) : (s.request k).stopped = s.stopped := rfl
@[simp] theorem State.request_fatal (s : State) (k : Nat) : (s.request k).fatal = s.fatal := rfl
@[simp] theorem State.request_refused (s : State) (k : Nat) : (s.request k).refused = s.refused := rfl
@[simp] theorem State.request_cycles (s : State) (k : Nat) : (s.request k).cycles = s.cycles := rfl
@[simp] theorem State.request_totalCycles (s : State) (k : Nat) : (s.request k).totalCycles = s.totalCycles := rfl
@[simp] theorem State.request_vram (s : State) (k : Nat) : (s.request k).vram = s.vram := rfl
@[simp] theorem State.request_wram (s : State) (k : Nat) : (s.request k).wram = s.wram := rfl
@[simp] theorem State.request_oam (s : State) (k : Nat) : (s.request k).oam = s.oam := rfl
@[simp] theorem State.request_hram (s : State) (k : Nat) : (s.request k).hram = s.hram := rfl
@[simp] theorem State.request_bgPal (s : State) (k : Nat) : (s.request k).bgPal = s.bgPal := rfl
@[simp] theorem State.request_objPal (s : State) (k : Nat) : (s.request k).objPal = s.objPal := rfl
@[simp] theorem State.request_bootMapped (s : State) (k : Nat) : (s.request k).bootMapped = s.bootMapped := rfl
@[simp] theorem State.request_cart (s : State) (k : Nat) : (s.request k).cart = s.cart := rfl
@[simp] theorem State.request_ifl (s : State) (k : Nat) : (s.request k).ifl = requestBit s.ifl k := rfl
@[simp] theorem State.request_ie (s : State) (k : Nat) : (s.request k).ie = s.ie := rfl
@[simp] theorem State.request_timer (s : State) (k : Nat) : (s.request k).timer = s.timer := rfl
@[simp] theorem State.request_ppu (s : State) (k : Nat) : (s.request k).ppu = s.ppu := rfl
@[simp] theorem State.request_dma (s : State) (k : Nat) : (s.request k).dma = s.dma := rfl
@[simp] theorem State.request_joypad (s : State) (k : Nat) : (s.request k).joypad = s.joypad := rfl
@[simp] theorem State.request_serial (s : State) (k : Nat) : (s.request k).serial = s.serial := rfl
@[simp] theorem State.request_cgb (s : State) (k : Nat) : (s.request k).cgb = s.cgb := rfl
@[simp] theorem State.request_draws (s : State) (k : Nat) : (s.request k).draws = s.draws := rfl

/-! `State.stepTo` -/

@[simp] theorem State.stepTo_cfg (s u : State) (n c : Nat) (x : Regs) : (s.stepTo u n c x).cfg = u.cfg := rfl
@[simp] theorem State.stepTo_regs (s u : State) (n c : Nat) (x : Regs) : (s.stepTo u n c x).regs = x := rfl
@[simp] theorem State.stepTo_sp (s u : State) (n c : Nat) (x : Regs) : (s.stepTo u n c x).sp = u.sp := rfl
@[simp] theorem State.stepTo_pc (s u : State) (n c : Nat) (x : Regs) : (s.stepTo u n c x).pc = s.nextPc n := rfl
@[simp] theorem State.stepTo_ime (s u : State) (n c : Nat) (x : Regs) : (s.stepTo u n c x).ime = u.ime := rfl
@[simp] theorem State.stepTo_eiDelay (s u : State) (n c : Nat) (x : Regs) : (s.stepTo u n c x).eiDelay = u.eiDelay := rfl
@[simp] theorem State.stepTo_halted (s u : State) (n c : Nat) (x : Regs) : (s.stepTo u n c x).halted = u.halted := rfl
@[simp] theorem State.stepTo_haltBug (s u : State) (n c : Nat) (x : Regs) : (s.stepTo u n c x).haltBug = false := rfl
@[simp] theorem State.stepTo_stopped (s u : State) (n c : Nat) (x : Regs) : (s.stepTo u n c x).stopped = u.stopped := rfl
@[simp] theorem State.stepTo_fatal (s u : State) (n c : Nat) (x : Regs) : (s.stepTo u n c x).fatal = u.fatal := rfl
@[simp] theorem State.stepTo_refused (s u : State) (n c : Nat) (x : Regs) : (s.stepTo u n c x).refused = u.refused := rfl
@[simp] theorem State.stepTo_cycles (s u : State) (n c : Nat) (x : Regs) : (s.stepTo u n c x).cycles = c := rfl
@[simp] theorem State.stepTo_totalCycles (s u : State) (n c : Nat) (x : Regs) : (s.stepTo u n c x).totalCycles = u.totalCycles := rfl
@[simp] theorem State.stepTo_vram (s u : State) (n c : Nat) (x : Regs) : (s.stepTo u n c x).vram = u.vram := rfl
@[simp] theorem State.stepTo_wram (s u : State) (n c : Nat) (x : Regs) : (s.stepTo u n c x).wram = u.wram := rfl
@[simp] theorem State.stepTo_oam (s u : State) (n c : Nat) (x : Regs) : (s.stepTo u n c x).oam = u.oam := rfl
@[simp] theorem State.stepTo_hram (s u : State) (n c : Nat) (x : Regs) : (s.stepTo u n c x).hram = u.hram := rfl
@[simp] theorem State.stepTo_bgPal (s u : State) (n c : Nat) (x : Regs) : (s.stepTo u n c x).bgPal = u.bgPal := rfl
@[simp] theorem State.stepTo_objPal (s u : State) (n c : Nat) (x : Regs) : (s.stepTo u n c x).objPal = u.objPal := rfl
@[simp] theorem State.stepTo_bootMapped (s u : State) (n c : Nat) (x : Regs) : (s.stepTo u n c x).bootMapped = u.bootMapped := rfl
@[simp] theorem State.stepTo_cart (s u : State) (n c : Nat) (x : Regs) : (s.stepTo u n c x).cart = u.cart := rfl
@[simp] theorem State.stepTo_ifl (s u : State) (n c : Nat) (x : Regs) : (s.stepTo u n c x).ifl = u.ifl := rfl
@[simp] theorem State.stepTo_ie (s u : State) (n c : Nat) (x : Regs) : (s.stepTo u n c x).ie = u.ie := rfl
@[simp] theorem State.stepTo_timer (s u : State) (n c : Nat) (x : Regs) : (s.stepTo u n c x).timer = u.timer := rfl
@[simp] theorem State.stepTo_ppu (s u : State) (n c : Nat) (x : Regs) : (s.stepTo u n c x).ppu = u.ppu := rfl
@[simp] theorem State.stepTo_dma (s u : State) (n c : Nat) (x : Regs) : (s.stepTo u n c x).dma = u.dma := rfl
@[simp] theorem State.stepTo_joypad (s u : State) (n c : Nat) (x : Regs) : (s.stepTo u n c x).joypad = u.joypad := rfl
@[simp] theorem State.stepTo_serial (s u : State) (n c : Nat) (x : Regs) : (s.stepTo u n c x).serial = u.serial := rfl
@[simp] theorem State.stepTo_cgb (s u : State) (n c : Nat) (x : Regs) : (s.stepTo u n c x).cgb = u.cgb := rfl
@[simp] theorem State.stepTo_draws (s u : State) (n c : Nat) (x : Regs) : (s.stepTo u n c x).draws = u.draws := rfl

/-! `State.startFrom` and `State.serialAdvance` -/

@[simp] theorem State.startFrom_cfg (r : State) (cfg : Params) (cart : Cart) : (r.startFrom cfg cart).cfg = cfg := rfl
@[simp] theorem State.startFrom_cart (r : State) (cfg : Params) (cart : Cart) : (r.startFrom cfg cart).cart = cart := rfl
@[simp] theorem State.startFrom_bootMapped (r : State) (cfg : Params) (cart : Cart) : (r.startFrom cfg cart).bootMapped = false := rfl
@[simp] theorem State.startFrom_regs (r : State) (cfg : Params) (cart : Cart) : (r.startFrom cfg cart).regs = r.regs := rfl
@[simp] theorem State.startFrom_sp (r : State) (cfg : Params) (cart : Cart) : (r.startFrom cfg cart).sp = r.sp := rfl
@[simp] theorem State.startFrom_pc (r : State) (cfg : Params) (cart : Cart) : (r.startFrom cfg cart).pc = r.pc := rfl
@[simp] theorem State.startFrom_ime (r : State) (cfg : Params) (cart : Cart) : (r.startFrom cfg cart).ime = r.ime := rfl
@[simp] theorem State.startFrom_eiDelay (r : State) (cfg : Params) (cart : Cart) : (r.startFrom cfg cart).eiDelay = r.eiDelay := rfl
@[simp] theorem State.startFrom_halted (r : State) (cfg : Params) (cart : Cart) : (r.startFrom cfg cart).halted = r.halted := rfl
@[simp] theorem State.startFrom_haltBug (r : State) (cfg : Params) (cart : Cart) : (r.startFrom cfg cart).haltBug = r.haltBug := rfl
@[simp] theorem State.startFrom_stopped (r : State) (cfg : Params) (cart : Cart) : (r.startFrom cfg cart).stopped = r.stopped := rfl
@[simp] theorem State.startFrom_fatal (r : State) (cfg : Params) (cart : Cart) : (r.startFrom cfg cart).fatal = r.fatal := rfl
@[simp] theorem State.startFrom_refused (r : State) (cfg : Params) (cart : Cart) : (r.startFrom cfg cart).refused = r.refused := rfl
@[simp] theorem State.startFrom_cycles (r : State) (cfg : Params) (cart : Cart) : (r.startFrom cfg cart).cycles = r.cycles := rfl
@[simp] theorem State.startFrom_totalCycles (r : State) (cfg : Params) (cart : Cart) : (r.startFrom cfg cart).totalCycles = r.totalCycles := rfl
@[simp] theorem State.startFrom_vram (r : State) (cfg : Params) (cart : Cart) : (r.startFrom cfg cart).vram = r.vram := rfl
@[simp] theorem State.startFrom_wram (r : State) (cfg : Params) (cart : Cart) : (r.startFrom cfg cart).wram = r.wram := rfl
@[simp] theorem State.startFrom_oam (r : State) (cfg : Params) (cart : Cart) : (r.startFrom cfg cart).oam = r.oam := rfl
@[simp] theorem State.startFrom_hram (r : State) (cfg : Params) (cart : Cart) : (r.startFrom cfg cart).hram = r.hram := rfl
@[simp] theorem State.startFrom_bgPal (r : State) (cfg : Params) (cart : Cart) : (r.startFrom cfg cart).bgPal = r.bgPal := rfl
@[simp] theorem State.startFrom_objPal (r : State) (cfg : Params) (cart : Cart) : (r.startFrom cfg cart).objPal = r.objPal := rfl
@[simp] theorem State.startFrom_ifl (r : State) (cfg : Params) (cart : Cart) : (r.startFrom cfg cart).ifl = r.ifl := rfl
@[simp] theorem State.startFrom_ie (r : State) (cfg : Params) (cart : Cart) : (r.startFrom cfg cart).ie = r.ie := rfl
@[simp] theorem State.startFrom_timer (r : State) (cfg : Params) (cart : Cart) : (r.startFrom cfg cart).timer = r.timer := rfl
@[simp] theorem State.startFrom_ppu (r : State) (cfg : Params) (cart : Cart) : (r.startFrom cfg cart).ppu = r.ppu := rfl
@[simp] theorem State.startFrom_dma (r : State) (cfg : Params) (cart : Cart) : (r.startFrom cfg cart).dma = r.dma := rfl
@[simp] theorem State.startFrom_joypad (r : State) (cfg : Params) (cart : Cart) : (r.startFrom cfg cart).joypad = r.joypad := rfl
@[simp] theorem State.startFrom_serial (r : State) (cfg : Params) (cart : Cart) : (r.startFrom cfg cart).serial = r.serial := rfl
@[simp] theorem State.startFrom_cgb (r : State) (cfg : Params) (cart : Cart) : (r.startFrom cfg cart).cgb = r.cgb := rfl
@[simp] theorem State.startFrom_draws (r : State) (cfg : Params) (cart : Cart) : (r.startFrom cfg cart).draws = r.draws := rfl
@[simp] theorem State.serialAdvance_zero (s : State) : s.serialAdvance 0 = s := rfl
@[simp] theorem State.serialAdvance_succ (s : State) (n : Nat) : s.serialAdvance (n + 1) = s.serialEvent := rfl

end Sys2Proof.Machine
end

