-- ==== Sys2Proof/Laws/Exec.lean ====
section
/-! SUPPORT. Everything an instruction and a step can do, said once: a property of states that the CPU's own part does
not bear on, and that reads, writes, the divider reset and the devices' advance keep, is kept by every instruction and
every step. -/

namespace Sys2Proof.Machine

/-- What an instruction's effect is built from keeps `P`. -/
structure Closed (P : State → Prop) : Prop where
  cpu : ∀ s c, P s → P (s.withCpu c)
  draw : ∀ s n, P s → P { s with draws := n }
  write : ∀ s u a v, P s → s.write a v = .ok u → P u
  div : ∀ s, P s → P s.divReset

/-- `P` holds of the state an effect leaves, if it is not refused. -/
def Holds (P : State → Prop) (e : Eff State) : Prop := ∀ t, e = .ok t → P t

variable {P : State → Prop}

theorem Closed.of_cpu (hP : Closed P) {s t : State} (h : t = s.withCpu t) (hs : P s) : P t := h ▸ hP.cpu s t hs

theorem Closed.read (hP : Closed P) {s u : State} {a : Word} {b : Byte} (h : s.read a = .ok (b, u)) (hs : P s) : P u :=
  State.read_ok h ▸ hP.draw s _ hs

theorem holds_ok {t : State} (h : P t) : Holds P (.ok t) := by rintro _ ⟨⟩; exact h

theorem holds_error (u : Unsupported) : Holds P (.error u) := by rintro _ ⟨⟩

theorem Closed.read_bind (hP : Closed P) {s : State} {a : Word} {f : Byte × State → Eff State} (hs : P s)
    (hf : ∀ b u, P u → Holds P (f (b, u))) : Holds P (s.read a >>= f) := by
  intro t h
  cases hr : s.read a with
  | error e => rw [hr] at h; cases h
  | ok x => rw [hr] at h; exact hf _ _ (hP.read hr hs) t h

theorem Closed.write_bind (hP : Closed P) {s : State} {a : Word} {v : Byte} {f : State → Eff State} (hs : P s)
    (hf : ∀ u, P u → Holds P (f u)) : Holds P (s.write a v >>= f) := by
  intro t h
  cases hr : s.write a v with
  | error e => rw [hr] at h; cases h
  | ok x => rw [hr] at h; exact hf _ (hP.write _ _ _ _ hs hr) t h

theorem Closed.push16 (hP : Closed P) {s : State} {v : Word} (hs : P s) : Holds P (s.push16 v) := by
  intro t h
  rw [State.push16_eq] at h
  cases h1 : s.write (s.sp - 1) (hi8 v) with
  | error e => rw [h1] at h; cases h
  | ok u =>
    rw [h1] at h
    cases h2 : u.write (s.sp - 2) (lo8 v) with
    | error e => simp only [h2] at h; cases h
    | ok w =>
      simp only [h2] at h
      cases h
      exact hP.of_cpu (s := w) rfl (hP.write _ _ _ _ (hP.write _ _ _ _ hs h1) h2)

theorem Closed.push16_bind (hP : Closed P) {s : State} {v : Word} {f : State → Eff State} (hs : P s)
    (hf : ∀ u, P u → Holds P (f u)) : Holds P (s.push16 v >>= f) := by
  intro t h
  cases hr : s.push16 v with
  | error e => rw [hr] at h; cases h
  | ok x => rw [hr] at h; exact hf _ (hP.push16 hs _ hr) t h

theorem Closed.pop16_bind (hP : Closed P) {s : State} {f : Word × State → Eff State} (hs : P s)
    (hf : ∀ v u, P u → Holds P (f (v, u))) : Holds P (s.pop16 >>= f) := by
  intro t h
  rw [State.pop16_eq] at h
  cases h1 : s.read s.sp with
  | error e => rw [h1] at h; cases h
  | ok x =>
    obtain ⟨lo, u⟩ := x
    rw [h1] at h
    simp only at h
    cases h2 : u.read (s.sp + 1) with
    | error e => rw [h2] at h; cases h
    | ok y =>
      obtain ⟨hi, w⟩ := y
      rw [h2] at h
      exact hf _ _ (hP.of_cpu (s := w) rfl (hP.read h2 (hP.read h1 hs))) t h

/-- An effect that only changes the CPU's own part. -/
theorem Closed.ok_cpu (hP : Closed P) {s t : State} (hs : P s) (h : t = s.withCpu t) : Holds P (.ok t) :=
  holds_ok (hP.of_cpu h hs)

/-! ### The shared shapes -/

theorem Closed.advance (hP : Closed P) {s : State} (n : Nat) (hs : P s) : P (s.advance n) := hP.of_cpu (s := s) rfl hs

theorem Closed.aluReg (hP : Closed P) {s : State} (op : AluOp) (r : Reg8) (hs : P s) : Holds P (s.aluReg op r) :=
  hP.ok_cpu hs rfl

theorem Closed.aluHl (hP : Closed P) {s : State} (op : AluOp) (hs : P s) : Holds P (s.aluHl op) :=
  hP.read_bind (hP.advance 1 hs) fun _ _ hu => hP.ok_cpu hu rfl

theorem Closed.aluImm (hP : Closed P) {s : State} (op : AluOp) (n : Byte) (hs : P s) : Holds P (s.aluImm op n) :=
  hP.ok_cpu hs rfl

theorem Closed.modifyHl (hP : Closed P) {s : State} (len cycles : Nat) (f : Byte → Flags → Byte)
    (g : Byte → Flags → Flags) (hs : P s) : Holds P (s.modifyHl len cycles f g) :=
  hP.read_bind (hP.advance len hs) fun _ _ hu => hP.write_bind hu fun _ hw => hP.ok_cpu hw rfl

theorem Closed.shiftReg (hP : Closed P) {s : State} (o : ShiftOp) (r : Reg8) (hs : P s) : Holds P (s.shiftReg o r) :=
  hP.ok_cpu hs rfl

theorem Closed.shiftHl (hP : Closed P) {s : State} (o : ShiftOp) (hs : P s) : Holds P (s.shiftHl o) :=
  hP.modifyHl _ _ _ _ hs

theorem Closed.rotateA (hP : Closed P) {s : State} (o : ShiftOp) (hs : P s) : Holds P (s.rotateA o) :=
  hP.ok_cpu hs rfl

theorem Closed.loadA (hP : Closed P) {s : State} (len cycles : Nat) (a : Word) (hs : P s) :
    Holds P (s.loadA len cycles a) :=
  hP.read_bind (hP.advance len hs) fun _ _ hu => hP.ok_cpu hu rfl

theorem Closed.storeByte (hP : Closed P) {s : State} (len cycles : Nat) (a : Word) (v : Byte) (hs : P s) :
    Holds P (s.storeByte len cycles a v) :=
  hP.write_bind (hP.advance len hs) fun _ hu => hP.ok_cpu hu rfl

theorem Closed.jumpIf (hP : Closed P) {s : State} (len : Nat) (taken : Bool) (target : Word) (yes no : Nat) (hs : P s) :
    Holds P (s.jumpIf len taken target yes no) := by
  cases taken <;> exact hP.ok_cpu hs rfl

theorem Closed.callIf (hP : Closed P) {s : State} (len : Nat) (taken : Bool) (target : Word) (yes no : Nat) (hs : P s) :
    Holds P (s.callIf len taken target yes no) := by
  cases taken
  · exact hP.ok_cpu hs rfl
  · exact hP.push16_bind (hP.advance len hs) fun _ hu => hP.ok_cpu hu rfl

theorem Closed.returnIf (hP : Closed P) {s : State} (taken : Bool) (yes no : Nat) (hs : P s) :
    Holds P (s.returnIf taken yes no) := by
  cases taken
  · exact hP.ok_cpu hs rfl
  · exact hP.pop16_bind (hP.advance 1 hs) fun _ _ hu => hP.ok_cpu hu rfl

theorem holds_bind {e : Eff State} {f : State → Eff State} (he : Holds P e) (hf : ∀ u, P u → Holds P (f u)) :
    Holds P (e >>= f) := by
  intro t h
  cases hr : e with
  | error e => rw [hr] at h; cases h
  | ok x => rw [hr] at h; exact hf _ (he _ hr) t h

theorem setPair_withCpu (s : State) (p : Reg16) (v : Word) : s.setPair p v = s.withCpu (s.setPair p v) := by
  cases p <;> rfl

theorem setStkPair_withCpu (s : State) (q : Reg16Stk) (v : Word) : s.setStkPair q v = s.withCpu (s.setStkPair q v) := by
  cases q <;> rfl

theorem Closed.runSecondary (hP : Closed P) {s : State} (op2 : Byte) (hs : P s) : Holds P (s.runSecondary op2) := by
  unfold State.runSecondary
  split
  · exact hP.shiftReg _ _ hs
  · exact hP.shiftHl _ hs
  · exact hP.ok_cpu hs rfl
  · exact hP.read_bind (hP.advance 2 hs) fun _ _ hu => hP.ok_cpu hu rfl
  · exact hP.ok_cpu hs rfl
  · exact hP.modifyHl _ _ _ _ hs
  · exact hP.ok_cpu hs rfl
  · exact hP.modifyHl _ _ _ _ hs

theorem Closed.conclude (hP : Closed P) {s t : State} {e : Eff State} (he : Holds P e) (hs : P s)
    (h : s.conclude e = .next t) : P t := by
  cases e with
  | ok u => cases h; exact he _ rfl
  | error u => cases h; exact hP.of_cpu (s := s) rfl hs

/-- An instruction keeps what its parts keep. -/
theorem exec_keeps (hP : Closed P) {i : Instr} {s t : State} (h : exec i s = .next t) (hs : P s) : P t := by
  cases i
  case ldRHl dst => exact hP.conclude (hP.read_bind (hP.advance 1 hs) fun _ _ hu => hP.ok_cpu hu rfl) hs h
  case bitHl k => exact hP.conclude (hP.read_bind (hP.advance 2 hs) fun _ _ hu => hP.ok_cpu hu rfl) hs h
  case ldAHli => exact hP.conclude (holds_bind (hP.loadA _ _ _ hs) fun _ hu => hP.ok_cpu hu rfl) hs h
  case ldAHld => exact hP.conclude (holds_bind (hP.loadA _ _ _ hs) fun _ hu => hP.ok_cpu hu rfl) hs h
  case ldHliA => exact hP.conclude (holds_bind (hP.storeByte _ _ _ _ hs) fun _ hu => hP.ok_cpu hu rfl) hs h
  case ldHldA => exact hP.conclude (holds_bind (hP.storeByte _ _ _ _ hs) fun _ hu => hP.ok_cpu hu rfl) hs h
  case ldA16Sp nn =>
    exact hP.conclude (hP.write_bind (hP.advance 3 hs) fun _ hu => hP.write_bind hu fun _ hw => hP.ok_cpu hw rfl) hs h
  case incRr p =>
    refine hP.conclude (hP.ok_cpu hs ?_) hs h
    cases p <;> rfl
  case decRr p =>
    refine hP.conclude (hP.ok_cpu hs ?_) hs h
    cases p <;> rfl
  case ldRrN p nn =>
    refine hP.conclude (hP.ok_cpu hs ?_) hs h
    cases p <;> rfl
  case reti =>
    refine hP.conclude (holds_bind ?_ fun _ hu => hP.ok_cpu hu rfl) hs h
    exact hP.pop16_bind (hP.advance 1 hs) fun _ _ hu => hP.ok_cpu hu rfl
  case push q => exact hP.conclude (hP.push16_bind (hP.advance 1 hs) fun _ hu => hP.ok_cpu hu rfl) hs h
  case pop q =>
    refine hP.conclude (hP.pop16_bind (hP.advance 1 hs) fun v u hu => hP.ok_cpu hu ?_) hs h
    cases q <;> rfl
  case stop x => exact hP.conclude (hP.ok_cpu (hP.div _ (hP.advance 2 hs)) rfl) hs h
  case halt =>
    refine hP.conclude (hP.ok_cpu hs ?_) hs h
    split <;> rfl
  case prefixCb => exact hP.conclude (hP.read_bind hs fun op2 _ hu => hP.runSecondary op2 hu) hs h
  case addAR | adcAR | subR | sbcAR | andR | xorR | orR | cpR => exact hP.conclude (hP.aluReg _ _ hs) hs h
  case addAHl | adcAHl | subHl | sbcAHl | andHl | xorHl | orHl | cpHl => exact hP.conclude (hP.aluHl _ hs) hs h
  case addAN | adcAN | subN | sbcAN | andN | xorN | orN | cpN => exact hP.conclude (hP.aluImm _ _ hs) hs h
  case incHl | decHl | resHl | setHl => exact hP.conclude (hP.modifyHl _ _ _ _ hs) hs h
  case rlcR | rrcR | rlR | rrR | slaR | sraR | swapR | srlR => exact hP.conclude (hP.shiftReg _ _ hs) hs h
  case rlcHl | rrcHl | rlHl | rrHl | slaHl | sraHl | swapHl | srlHl => exact hP.conclude (hP.shiftHl _ hs) hs h
  case rlca | rrca | rla | rra => exact hP.conclude (hP.rotateA _ hs) hs h
  case ldABc | ldADe | ldAA16 | ldhAA8 | ldhAC => exact hP.conclude (hP.loadA _ _ _ hs) hs h
  case ldHlR | ldHlN | ldBcA | ldDeA | ldA16A | ldhA8A | ldhCA => exact hP.conclude (hP.storeByte _ _ _ _ hs) hs h
  case jp | jpCc | jpHl | jr | jrCc => exact hP.conclude (hP.jumpIf _ _ _ _ _ hs) hs h
  case call | callCc | rst => exact hP.conclude (hP.callIf _ _ _ _ _ hs) hs h
  case ret | retCc => exact hP.conclude (hP.returnIf _ _ _ hs) hs h
  case illegalD3 | illegalDB | illegalDD | illegalE3 | illegalE4 | illegalEB | illegalEC | illegalED | illegalF4 | illegalFC | illegalFD => (cases h; exact hP.of_cpu (s := s) rfl hs)
  all_goals exact hP.conclude (hP.ok_cpu hs rfl) hs h

/-! ### The step -/

theorem Closed.readBytes (hP : Closed P) (n : Nat) (a : Word) {s u : State} {bs : List Byte}
    (h : State.readBytes n a s = .ok (bs, u)) (hs : P s) : P u := by
  induction n generalizing a s bs with
  | zero => cases h; exact hs
  | succ n ih =>
    unfold State.readBytes at h
    cases h1 : s.read a with
    | error e => rw [h1] at h; cases h
    | ok x =>
      rw [h1] at h
      change Except.bind (State.readBytes n (a + 1) x.2) _ = _ at h
      cases h2 : State.readBytes n (a + 1) x.2 with
      | error e => rw [h2] at h; cases h
      | ok y =>
        rw [h2] at h
        cases h
        exact ih _ h2 (hP.read (b := x.1) h1 hs)

/-- Fetching is reading: the opcode, then the bytes after it. -/
theorem State.fetch_ok {s u : State} {i : Instr} (h : s.fetch = .ok (i, u)) :
    ∃ op s1 bs, s.read s.pc = .ok (op, s1) ∧ State.readBytes (lengthOf op - 1) s.operandAddr s1 = .ok (bs, u) ∧
      i = decodeFetched (op :: bs) := by
  unfold State.fetch at h
  cases hb : s.fetchBytes with
  | error e => rw [hb] at h; cases h
  | ok x =>
    rw [hb] at h
    cases h
    unfold State.fetchBytes at hb
    cases h1 : s.read s.pc with
    | error e => simp only [h1] at hb; cases hb
    | ok y =>
      simp only [h1] at hb
      change Except.bind (State.readBytes (lengthOf y.1 - 1) s.operandAddr y.2) _ = _ at hb
      cases h2 : State.readBytes (lengthOf y.1 - 1) s.operandAddr y.2 with
      | error e => rw [h2] at hb; cases hb
      | ok z =>
        rw [h2] at hb
        cases hb
        exact ⟨y.1, y.2, z.1, rfl, h2, rfl⟩

theorem Closed.fetch (hP : Closed P) {s u : State} {i : Instr} (h : s.fetch = .ok (i, u)) (hs : P s) : P u := by
  obtain ⟨op, s1, bs, h1, h2, -⟩ := State.fetch_ok h
  exact hP.readBytes _ _ h2 (hP.read h1 hs)

theorem Closed.dispatch (hP : Closed P) (hifl : ∀ s v, P s → P { s with ifl := v }) {s : State} (hs : P s) :
    Holds P s.dispatch := by
  unfold State.dispatch
  refine hP.push16_bind ?_ fun _ hu => hP.ok_cpu hu rfl
  exact hP.of_cpu (s := { s with ifl := s.ifl &&& ~~~(1#5 <<< lowestBit s.pending) }) rfl (hifl s _ hs)

/-- A step keeps what an instruction and the devices' advance keep. -/
theorem step_keeps (hP : Closed P) (hifl : ∀ s v, P s → P { s with ifl := v }) (helapse : ∀ s, P s → P s.elapse)
    {s t : State} (h : step s = .next t) (hs : P s) : P t := by
  have hmark (u : State) : P (s.markOnly u) := hP.of_cpu (s := s) rfl hs
  have hafter (o : Host.Outcome State Fault Refusal) (ho : ∀ u, o = .next u → P u) (h : s.afterCpu o = .next t) : P t := by
    cases o with
    | next u =>
      simp only [State.afterCpu, Host.Outcome.next.injEq] at h
      subst h
      split
      · exact hmark u
      · exact helapse _ (ho u rfl)
    | fault f => cases h
    | refused r => cases h
  unfold step State.stepWith at h
  cases hb : s.blocked with
  | some o =>
    simp only [hb] at h
    subst h
    unfold State.blocked at hb
    split at hb <;> cases hb
    exact hP.of_cpu (s := s) rfl hs
  | none =>
    simp only [hb] at h
    refine hafter _ ?_ h
    intro u hu
    cases hi : s.idle with
    | some o =>
      rw [hi] at hu
      simp only at hu
      subst hu
      unfold State.idle at hi
      split at hi
      · cases hi; exact hP.of_cpu (s := s) rfl hs
      · split at hi
        · cases hi; exact hP.of_cpu (s := s) rfl hs
        · split at hi
          · exact hP.conclude (hP.dispatch hifl hs) hs (Option.some.inj hi)
          · cases hi
    | none =>
      rw [hi] at hu
      simp only [State.executeOne] at hu
      cases hf : s.fetch with
      | error e => rw [hf] at hu; cases hu; exact hP.of_cpu (s := s) rfl hs
      | ok x =>
        obtain ⟨i, v⟩ := x
        simp only [hf] at hu
        cases he : exec i v with
        | fault f => rw [he] at hu; cases hu
        | refused r => rw [he] at hu; cases hu
        | next w =>
          rw [he] at hu
          simp only [afterInstr, Host.Outcome.next.injEq] at hu
          have hw : P w := exec_keeps hP he (hP.fetch hf hs)
          subst hu
          split
          · exact hw
          · unfold State.countdown
            repeat' split
            · exact hw
            · exact hP.of_cpu (s := w) rfl hw
            · exact hP.of_cpu (s := w) rfl hw

end Sys2Proof.Machine
end

