-- ==== Sys2Proof/Laws/Shapes.lean ====
section
/-! SUPPORT. Each shared shape of the meanings, said once in the terms of the claims: what an instruction that reads,
writes, modifies, pushes or pops answers, and that the flag computations are the numbers the claims write. -/

namespace Sys2Proof.Machine

/-! ### The CPU's own part -/

/-- pc after an instruction's bytes, with its HALT bug. -/
theorem State.advance_pc_eq (s : State) (n : Nat) (h : 1 ≤ n) : (s.advance n).pc = s.nextPc n := by
  simp only [State.advance_pc, State.operandAddr, State.nextPc]
  obtain ⟨k, rfl⟩ : ∃ k, n = k + 1 := ⟨n - 1, by omega⟩
  have hk : BitVec.ofNat 16 (k + 1) = BitVec.ofNat 16 k + 1#16 := BitVec.ofNat_add k 1
  rw [Nat.add_sub_cancel, hk]
  split
  · rw [← BitVec.add_assoc]
    exact (BitVec.add_sub_cancel _ _).symm
  · rw [BitVec.add_comm (BitVec.ofNat 16 k), BitVec.add_assoc]
    rfl

/-- `advance` as an update. -/
theorem State.advance_eq_with (s : State) (n : Nat) (h : 1 ≤ n) : s.advance n = { s with pc := s.nextPc n, haltBug := false } := by
  rw [← State.advance_pc_eq s n h]
  rfl

theorem State.read_advance (s : State) (n : Nat) (a : Word) :
    (s.advance n).read a = (s.read a).map fun x => (x.1, x.2.withCpu (s.advance n)) := by
  rw [State.advance_eq, State.read_withCpu]; rfl

theorem State.write_advance (s : State) (n : Nat) (a : Word) (v : Byte) :
    (s.advance n).write a v = (s.write a v).map (·.withCpu (s.advance n)) := by
  rw [State.advance_eq, State.write_withCpu]; rfl

/-! ### Shapes -/

/-- An instruction that reads one byte after its bytes are counted. -/
theorem loads_intro {i : Instr} {s : State} {a : Word} {n : Nat} {g : Byte × State → Eff State} {f : Byte → State → State}
    (h : exec i s = s.conclude ((s.advance n).read a >>= g))
    (hg : ∀ (b : Byte) (u : State), u = { s with draws := u.draws } → g (b, u.withCpu (s.advance n)) = .ok (f b u)) : Loads i s a f := by
  rw [State.read_advance] at h
  refine ⟨fun b u hu => ?_, fun e he => ?_⟩
  · rw [h, hu]
    show s.conclude (g (b, u.withCpu (s.advance n))) = _
    rw [hg b u (State.read_ok hu)]
    rfl
  · rw [h, he]; rfl

/-- An instruction that writes one byte after its bytes are counted. -/
theorem stores_intro {i : Instr} {s : State} {a : Word} {v : Byte} {n : Nat} {g : State → Eff State} {f : State → State}
    (h : exec i s = s.conclude ((s.advance n).write a v >>= g))
    (hg : ∀ u : State, u = u.withCpu s → g (u.withCpu (s.advance n)) = .ok (f u)) : StoresByte i s a v f := by
  rw [State.write_advance] at h
  refine ⟨fun u hu => ?_, fun e he => ?_⟩
  · rw [h, hu]
    show s.conclude (g (u.withCpu (s.advance n))) = _
    rw [hg u (State.write_cpu hu)]
    rfl
  · rw [h, he]; rfl

/-- An instruction that reads the byte at HL and writes it back. -/
theorem modifies_intro {i : Instr} {s : State} {n c : Nat} {fv : Byte → Flags → Byte} {ff : Byte → Flags → Flags}
    {g : Byte → Byte} {f : Byte → State → State} (h : exec i s = s.conclude (s.modifyHl n c fv ff))
    (hg : ∀ v, fv v s.regs.f = g v)
    (hf : ∀ (v : Byte) (w : State), w = w.withCpu s → ((w.withCpu (s.advance n)).setFlags (ff v s.regs.f)).cost c = f v w) :
    Modifies i s s.regs.hl g f := by
  have hm : s.modifyHl n c fv ff =
      (match s.read s.regs.hl with
        | .error e => .error e
        | .ok (v, u) =>
          match u.write s.regs.hl (g v) with
          | .error e => .error e
          | .ok w => .ok (f v w)) := by
    unfold State.modifyHl
    show ((s.advance n).read s.regs.hl >>= _) = _
    rw [State.read_advance]
    cases hr : s.read s.regs.hl with
    | error e => rfl
    | ok x =>
      obtain ⟨v, u⟩ := x
      have hu := State.read_ok hr
      show ((u.withCpu (s.advance n)).write s.regs.hl (fv v s.regs.f) >>= _) = _
      rw [State.write_withCpu, hg v]
      simp only
      cases hw : u.write s.regs.hl (g v) with
      | error e => rfl
      | ok w =>
        have hw' := State.write_cpu hw
        have hws : w = w.withCpu s := by rw [hu] at hw'; exact hw'
        show Except.ok (((w.withCpu (s.advance n)).setFlags (ff v s.regs.f)).cost c) = _
        rw [hf v w hws]
  rw [hm] at h
  refine ⟨fun v u w hu hw => ?_, fun e he => ?_, fun v u e hu he => ?_⟩
  · rw [h]; simp only [hu, hw]; rfl
  · rw [h]; simp only [he]; rfl
  · rw [h]; simp only [hu, he]; rfl

/-- An instruction that writes two bytes. -/
theorem storesTwo_intro {i : Instr} {s : State} {a1 a2 : Word} {v1 v2 : Byte} {f : State → State}
    (h : exec i s = s.conclude
      (match s.write a1 v1 with
        | .error e => .error e
        | .ok u =>
          match u.write a2 v2 with
          | .error e => .error e
          | .ok w => .ok (f w))) : StoresTwo i s a1 v1 a2 v2 f := by
  refine ⟨fun u w hu hw => ?_, fun e he => ?_, fun u e hu he => ?_⟩
  · rw [h]; simp only [hu, hw]; rfl
  · rw [h]; simp only [he]; rfl
  · rw [h]; simp only [hu, he]; rfl

/-- An instruction that pushes after its bytes are counted. -/
theorem pushes_intro {i : Instr} {s : State} {n : Nat} {v : Word} {g : State → Eff State} {f : State → State}
    (h : exec i s = s.conclude ((s.advance n).push16 v >>= g))
    (hg : ∀ w : State, w = w.withCpu s → g ({ w.withCpu (s.advance n) with sp := s.sp - 2 }) = .ok (f { w with sp := s.sp - 2 })) :
    Pushes i s v f := by
  refine storesTwo_intro ?_
  rw [h, State.push16_eq]
  show s.conclude ((match (s.advance n).write (s.sp - 1) (hi8 v) with
    | .error e => .error e
    | .ok u =>
      match u.write (s.sp - 2) (lo8 v) with
      | .error e => .error e
      | .ok w => .ok { w with sp := s.sp - 2 }) >>= g) = _
  rw [State.write_advance]
  cases hw : s.write (s.sp - 1) (hi8 v) with
  | error e => rfl
  | ok u =>
    simp only [Except.map]
    rw [State.write_withCpu]
    cases hw2 : u.write (s.sp - 2) (lo8 v) with
    | error e => rfl
    | ok w =>
      have e1 := State.write_cpu hw
      have e2 := State.write_cpu hw2
      have hws : w = w.withCpu s := by rw [e1] at e2; exact e2
      show s.conclude (g { w.withCpu (s.advance n) with sp := s.sp - 2 }) = _
      rw [hg w hws]

/-- An instruction that pops after its byte is counted. -/
theorem pops_intro {i : Instr} {s : State} {n : Nat} {g : Word × State → Eff State} {f : Word → State → State}
    (h : exec i s = s.conclude ((s.advance n).pop16 >>= g))
    (hg : ∀ (v : Word) (w : State), w = { s with draws := w.draws } →
      g (v, { w.withCpu (s.advance n) with sp := s.sp + 2 }) = .ok (f v { w with sp := s.sp + 2 })) : Pops i s f := by
  have hm : (s.advance n).pop16 >>= g =
      (match s.read s.sp with
        | .error e => .error e
        | .ok (lo, u) =>
          match u.read (s.sp + 1) with
          | .error e => .error e
          | .ok (hi, w) => .ok (f (hi ++ lo) { w with sp := s.sp + 2 })) := by
    rw [State.pop16_eq]
    simp only [State.advance_sp]
    rw [State.read_advance]
    cases hr : s.read s.sp with
    | error e => rfl
    | ok x =>
      obtain ⟨lo, u⟩ := x
      have hu := State.read_ok hr
      simp only [Except.map]
      rw [State.read_withCpu]
      cases hr2 : u.read (s.sp + 1) with
      | error e => rfl
      | ok y =>
        obtain ⟨hi, w⟩ := y
        have hw := State.read_ok hr2
        have hws : w = { s with draws := w.draws } := by rw [hu] at hw; exact hw
        exact hg (hi ++ lo) w hws
  rw [hm] at h
  refine ⟨fun lo u hi w hu hw => ?_, fun e he => ?_, fun lo u e hu he => ?_⟩
  · rw [h]; simp only [hu, hw]; rfl
  · rw [h]; simp only [he]; rfl
  · rw [h]; simp only [hu, he]; rfl

end Sys2Proof.Machine
end

