-- ==== Sys2Proof/Laws/Flags.lean ====
section
/-! SUPPORT. The flag computations as the numbers the claims write. -/

namespace Sys2Proof.Machine

theorem beq_zero_toNat {w : Nat} (v : BitVec w) : (v == 0) = (v.toNat == 0) := by
  rw [Bool.eq_iff_iff]
  simp [← BitVec.toNat_inj]

theorem beq_zero_ofNat {w : Nat} (t : Nat) : (BitVec.ofNat w t == 0) = (t % 2 ^ w == 0) := by
  rw [beq_zero_toNat, BitVec.toNat_ofNat]

/-- The adder on A and F (`40_alu8.md` R601). -/
theorem add8_plus (x : Regs) (b : Byte) (cin : Bool) :
    { x with a := (add8 x.a b cin).1, f := (add8 x.a b cin).2 } = x.plus b cin := by
  simp only [add8, Regs.plus, beq_zero_ofNat]
  rfl

/-- The subtractor's result as a number (`40_alu8.md` R602). -/
theorem sub8_result (a b : Byte) (cin : Bool) :
    (sub8 a b cin).1 = BitVec.ofNat 8 (256 + a.toNat - (b.toNat + cin.toNat)) := by
  have hc : cin.toNat ≤ 1 := by cases cin <;> decide
  have := a.isLt
  have := b.isLt
  simp only [sub8]
  apply BitVec.eq_of_toNat_eq
  rw [BitVec.toNat_ofInt, BitVec.toNat_ofNat]
  omega

/-- The subtractor on F (`40_alu8.md` R602). -/
theorem sub8_compared (x : Regs) (b : Byte) (cin : Bool) : { x with f := (sub8 x.a b cin).2 } = x.compared b cin := by
  have hz : (sub8 x.a b cin).2.z = ((256 + x.a.toNat - (b.toNat + cin.toNat)) % 256 == 0) := by
    show ((sub8 x.a b cin).1 == 0) = _
    rw [sub8_result, beq_zero_ofNat]
    rfl
  unfold Regs.compared
  rw [← hz]
  rfl

/-- The subtractor on A and F (`40_alu8.md` R602). -/
theorem sub8_minus (x : Regs) (b : Byte) (cin : Bool) :
    { x with a := (sub8 x.a b cin).1, f := (sub8 x.a b cin).2 } = x.minus b cin := by
  unfold Regs.minus
  rw [← sub8_compared, ← sub8_result]

/-- The logical flags on A and F (`40_alu8.md` R604). -/
theorem logicFlags_logic (x : Regs) (r : Byte) (h : Bool) : { x with a := r, f := logicFlags r h } = x.logic r h := by
  simp only [logicFlags, Regs.logic, beq_zero_toNat]

/-- Z of an increment (`40_alu8.md` R640). -/
theorem inc_zero (v : Byte) : (v + 1 == 0) = (v.toNat == 255) := by
  have := v.isLt
  rw [Bool.eq_iff_iff]
  simp only [beq_iff_eq, ← BitVec.toNat_inj, BitVec.toNat_add]
  show (v.toNat + 1) % 256 = 0 ↔ _
  omega

/-- Z of a decrement (`40_alu8.md` R642). -/
theorem dec_zero (v : Byte) : (v - 1 == 0) = (v.toNat == 1) := by
  have := v.isLt
  rw [Bool.eq_iff_iff]
  simp only [beq_iff_eq, ← BitVec.toNat_inj, BitVec.toNat_sub]
  show (256 - 1 + v.toNat) % 256 = 0 ↔ _
  omega

/-- The flags of an increment (`40_alu8.md` R640). -/
theorem incFlags_eq (v : Byte) (f : Flags) :
    incFlags v f = { z := v.toNat == 255, n := false, h := v.toNat % 16 == 15, c := f.c } := by
  rw [incFlags, inc_zero]; rfl

/-- The flags of a decrement (`40_alu8.md` R642). -/
theorem decFlags_eq (v : Byte) (f : Flags) :
    decFlags v f = { z := v.toNat == 1, n := true, h := v.toNat % 16 == 0, c := f.c } := by
  rw [decFlags, dec_zero]; rfl

/-- The shifts as numbers (`42_rotate_shift.md` R800). -/
theorem shift_eq (o : ShiftOp) (v : Byte) (cin : Bool) :
    (o.apply v cin).1.toNat = (shifted o v cin).1 ∧ (o.apply v cin).2 = (shifted o v cin).2 := by
  revert o v cin
  have h : ∀ (cin : Bool) (k : Fin 256) , ∀ o ∈ [ShiftOp.rlc, .rrc, .rl, .rr, .sla, .sra, .swap, .srl],
      (o.apply (BitVec.ofFin (w := 8) k) cin).1.toNat = (shifted o (BitVec.ofFin (w := 8) k) cin).1 ∧
        (o.apply (BitVec.ofFin (w := 8) k) cin).2 = (shifted o (BitVec.ofFin (w := 8) k) cin).2 := by decide +kernel
  intro o v cin
  exact h cin v.toFin o (by cases o <;> simp)

/-- The displacement added to SP or pc (`00_scope.md` R31). -/
theorem add_sext16 (p : Word) (e : Byte) : p + sext16 e = BitVec.ofInt 16 (p.toNat + e.toInt) := by
  unfold sext16
  apply BitVec.eq_of_toInt_eq
  rw [BitVec.toInt_add, BitVec.toInt_signExtend_of_le (by omega), BitVec.toInt_ofInt]
  simp only [BitVec.toInt_eq_toNat_bmod]
  simp [Int.bmod_add_bmod]

/-- DAA on every byte, as numbers (`40_alu8.md` R650). -/
theorem daaResult_table : ∀ (n h c : Bool) (k : Fin 256),
      let big := c = true ∨ (n = false ∧ 0x99 < k.val)
      let low := h = true ∨ (n = false ∧ 9 < k.val % 16)
      let adjust := (if big then 0x60 else 0) + if low then 6 else 0
      let r := if n = true then (512 + k.val - adjust) % 256 else (k.val + adjust) % 256
      daaResult (BitVec.ofFin (w := 8) k) ⟨false, n, h, c⟩ = (BitVec.ofNat 8 r, { z := r == 0, n := n, h := false, c := decide big }) := by
  decide +kernel

/-- The two bytes of a word. -/
theorem hi8_lo8 (v : Word) : hi8 v ++ lo8 v = v := by
  unfold hi8 lo8; rw [BitVec.extractLsb'_append_extractLsb'_eq_extractLsb' (by decide)]; simp

/-- The low byte of two bytes. -/
theorem lo8_append (lo hi : Byte) : lo8 (hi ++ lo) = lo := by
  unfold lo8; apply BitVec.eq_of_getLsbD_eq; intro i h; rw [BitVec.getLsbD_extractLsb', BitVec.getLsbD_append]; simp [h]

/-- The high byte of two bytes. -/
theorem hi8_append (lo hi : Byte) : hi8 (hi ++ lo) = hi := by
  unfold hi8; apply BitVec.eq_of_getLsbD_eq; intro i h; rw [BitVec.getLsbD_extractLsb', BitVec.getLsbD_append]; simp [h]

/-- A shift result as a byte. -/
theorem ofNat_shifted (o : ShiftOp) (v : Byte) (c : Bool) : BitVec.ofNat 8 (shifted o v c).1 = (o.apply v c).1 := by
  rw [← (shift_eq o v c).1, BitVec.ofNat_toNat, BitVec.setWidth_eq]

/-- The flags of a prefixed shift as numbers. -/
theorem shiftFlags_eq (o : ShiftOp) (v : Byte) (c : Bool) : shiftFlags (o.apply v c).1 (o.apply v c).2 = { z := (shifted o v c).1 == 0, n := false, h := false, c := (shifted o v c).2 } := by
  rw [shiftFlags, beq_zero_toNat, (shift_eq o v c).1, (shift_eq o v c).2]

/-- The condition table (`30_encoding.md` R510). -/
theorem condHolds_iff (cc : Cond) (f : Flags) : (match cc with
      | .nz => f.z = false
      | .z => f.z = true
      | .nc => f.c = false
      | .c => f.c = true) ↔ condHolds cc f = true := by cases cc <;> simp [condHolds]

/-- F as a number (`10_state.md` R110). -/
theorem Flags.toByte_eq (f : Flags) : f.toByte = BitVec.ofNat 8 (128 * f.z.toNat + 64 * f.n.toNat + 32 * f.h.toNat + 16 * f.c.toNat) := by
  obtain ⟨z, n, h, c⟩ := f
  cases z <;> cases n <;> cases h <;> cases c <;> rfl

/-- The flags of a popped word (`46_stack.md` R1211). -/
theorem Flags.ofByte_lo8 (v : Word) : Flags.ofByte (lo8 v) = { z := v.getLsbD 7, n := v.getLsbD 6, h := v.getLsbD 5, c := v.getLsbD 4 } := by
  simp [Flags.ofByte, lo8]

/-! ### Whole instructions -/

/-- An ALU instruction on a register. -/
theorem aluReg_next (s : State) (op : AluOp) (r : Reg8) (x : Regs)
    (h : { s.regs with a := (op.apply s.regs.a (s.reg r) s.regs.f.c).1, f := (op.apply s.regs.a (s.reg r) s.regs.f.c).2 } = x) :
    s.conclude (s.aluReg op r) = .next (s.stepTo s 1 4 x) := by
  subst h
  show Host.Outcome.next _ = _
  rw [State.advance_eq_with s 1 (by decide)]
  rfl

/-- An ALU instruction on an immediate. -/
theorem aluImm_next (s : State) (op : AluOp) (n : Byte) (x : Regs)
    (h : { s.regs with a := (op.apply s.regs.a n s.regs.f.c).1, f := (op.apply s.regs.a n s.regs.f.c).2 } = x) :
    s.conclude (s.aluImm op n) = .next (s.stepTo s 2 8 x) := by
  subst h
  show Host.Outcome.next _ = _
  rw [State.advance_eq_with s 2 (by decide)]
  rfl

/-- An ALU instruction on the byte at HL. -/
theorem aluHl_loads (i : Instr) (s : State) (op : AluOp) (x : Byte → Regs) (hi : exec i s = s.conclude (s.aluHl op))
    (h : ∀ b, { s.regs with a := (op.apply s.regs.a b s.regs.f.c).1, f := (op.apply s.regs.a b s.regs.f.c).2 } = x b) :
    Loads i s s.regs.hl fun b u => s.stepTo u 1 8 (x b) := by
  refine loads_intro (n := 1) hi fun b u hu => ?_
  rw [← h, hu, State.advance_eq_with s 1 (by decide)]
  rfl

/-- A prefixed shift of a register. -/
theorem shiftReg_next (s : State) (o : ShiftOp) (r : Reg8) : s.conclude (s.shiftReg o r) = .next (s.stepTo s 2 8 (s.regs.shift o r)) := by
  show Host.Outcome.next _ = _
  rw [State.advance_eq_with s 2 (by decide), shiftFlags_eq]
  unfold Regs.shift
  simp only [ofNat_shifted]
  rfl

/-- A rotate of A. -/
theorem rotateA_next (s : State) (o : ShiftOp) : s.conclude (s.rotateA o) = .next (s.stepTo s 1 4
          { s.regs with a := BitVec.ofNat 8 (shifted o s.regs.a s.regs.f.c).1, f := { z := false, n := false, h := false, c := (shifted o s.regs.a s.regs.f.c).2 } }) := by
  show Host.Outcome.next _ = _
  rw [State.advance_eq_with s 1 (by decide), ofNat_shifted, ← (shift_eq _ _ _).2]
  rfl

/-- A prefixed shift of the byte at HL. -/
theorem shiftHl_mod (s : State) (i : Instr) (o : ShiftOp) (h : exec i s = s.conclude (s.shiftHl o)) : Modifies i s s.regs.hl (fun v => BitVec.ofNat 8 (shifted o v s.regs.f.c).1) fun v w =>
        let t := shifted o v s.regs.f.c
        s.stepTo w 2 16 { s.regs with f := { z := t.1 == 0, n := false, h := false, c := t.2 } } := by
  refine modifies_intro h (fun v => (ofNat_shifted _ _ _).symm) fun v w hw => ?_
  rw [shiftFlags_eq, hw, State.advance_eq_with s 2 (by decide)]; rfl

/-- A load of A. -/
theorem loadA_loads (i : Instr) (s : State) (n c : Nat) (h : 1 ≤ n) (a : Word) (hi : exec i s = s.conclude (s.loadA n c a)) :
    Loads i s a fun v u => s.stepTo u n c { s.regs with a := v } := by
  refine loads_intro (n := n) hi fun b u hu => ?_
  rw [hu, State.advance_eq_with s n h]
  rfl

/-- A store of a byte. -/
theorem storeByte_stores (i : Instr) (s : State) (n c : Nat) (h : 1 ≤ n) (a : Word) (v : Byte) (hi : exec i s = s.conclude (s.storeByte n c a v)) :
    StoresByte i s a v fun u => s.stepTo u n c s.regs := by
  refine stores_intro (n := n) hi fun u hu => ?_
  rw [hu, State.advance_eq_with s n h]
  rfl

/-- A jump taken and one not taken. -/
theorem jumpIf_next (s : State) (n : Nat) (h : 1 ≤ n) (t : Word) (y no : Nat) :
   s.conclude (s.jumpIf n true t y no) = .next { s.stepTo s n y s.regs with pc := t } ∧ s.conclude (s.jumpIf n false t y no) = .next (s.stepTo s n no s.regs) := by
  constructor
  · show Host.Outcome.next _ = _
    rw [State.advance_eq_with s n h]; rfl
  · show Host.Outcome.next _ = _
    rw [State.advance_eq_with s n h]; rfl

/-- A call taken. -/
theorem callIf_pushes (i : Instr) (s : State) (n : Nat) (h : 1 ≤ n) (t : Word) (y no : Nat) (hi : exec i s = s.conclude (s.callIf n true t y no)) :
    Pushes i s (s.nextPc n) fun w => { s.stepTo w n y s.regs with pc := t } := by
  have : s.callIf n true t y no = (s.advance n).push16 (s.nextPc n) >>= fun s => .ok ({ s with pc := t }.cost y) := by
    unfold State.callIf
    rw [← State.advance_pc_eq s n h]; rfl
  rw [this] at hi
  refine pushes_intro hi fun w hw => ?_
  rw [hw, State.advance_eq_with s n h]; rfl

/-- A return taken. -/
theorem returnIf_pops (i : Instr) (s : State) (y no : Nat) (hi : exec i s = s.conclude (s.returnIf true y no)) :
    Pops i s fun v w => { s.stepTo w 1 y s.regs with pc := v } := by
  refine pops_intro (n := 1) hi fun v w hw => ?_
  rw [hw, State.advance_eq_with s 1 (by decide)]; rfl

end Sys2Proof.Machine
end

