-- ==== Sys2Proof/Laws/Step.lean ====
section
/-! SUPPORT. The step around an instruction, and the timer signal, in the terms of the claims. -/

namespace Sys2Proof.Machine

/-- An enabled interrupt is requested (`60_exceptions.md` R1404). -/
theorem State.pending_iff (s : State) : (s.pending != 0) = true ↔ s.Pending := by
  unfold State.Pending State.pending
  constructor
  · intro h
    by_contra hn
    push Not at hn
    apply (bne_iff_ne.1 h)
    apply BitVec.eq_of_getLsbD_eq
    intro k hk
    rw [BitVec.getLsbD_and, BitVec.getLsbD_extractLsb']
    have := hn k hk
    cases h1 : s.ie.getLsbD k
    · simp [h1]
    · have h3 := Bool.eq_false_iff.2 (this h1)
      rw [h3, Bool.and_false]; simp
  · rintro ⟨k, hk, h1, h2⟩
    rw [bne_iff_ne]
    intro h
    have : (BitVec.extractLsb' 0 5 s.ie &&& s.ifl).getLsbD k = (0#5).getLsbD k := by rw [h]; rfl
    rw [BitVec.getLsbD_and, BitVec.getLsbD_extractLsb'] at this
    rw [h2, Nat.zero_add, h1] at this
    simp [hk] at this

/-- The tapped bit (`60_exceptions.md` R1502). -/
theorem Timer.tap_eq (t : Timer) : t.tap = tapBit t.tac := by
  have : ∀ k : Fin 8, (⟨0, 0, 0, BitVec.ofFin k⟩ : Timer).tap = tapBit (BitVec.ofFin k) := by decide
  exact this t.tac.toFin

/-- The timer signal (`60_exceptions.md` R1502). -/
theorem Timer.sig_eq (t : Timer) : t.sig = tapSignal t := by unfold Timer.sig tapSignal; rw [Timer.tap_eq]

/-- A change of the timer with its edge (`60_exceptions.md` R1503). -/
theorem State.setTimer_eq (s : State) (t : Timer) : s.setTimer t = s.withTimer t := by
  unfold State.setTimer State.withTimer edge
  simp only [Timer.sig_eq]
  unfold incTima
  by_cases h : t.tima = 0xFF
  · simp only [if_pos h]
    cases tapSignal s.timer <;> cases tapSignal t <;> rfl
  · simp only [if_neg h]
    cases tapSignal s.timer <;> cases tapSignal t <;> rfl

/-- A machine with no mark and in no impossible state is not blocked. -/
theorem State.blocked_live {s : State} (h : s.Live) : s.blocked = none := by
  obtain ⟨h1, h2, h3⟩ := h
  simp [State.blocked, h1, h2, h3]

/-- A step of a machine that may take one. -/
theorem step_live {s : State} (h : s.Live) : step s = s.afterCpu (match s.idle with | some o => o | none => s.executeOne exec) := by
  cases hi : s.idle <;> simp only [step, State.stepWith, State.blocked_live h, hi]

/-- What follows a CPU part that raised no mark. -/
theorem State.afterCpu_clean (s : State) {t : State} (h1 : t.fatal = none) (h2 : t.refused = none) : s.afterCpu (.next t) = .next (t.devices t.cycles) := by
  simp only [State.afterCpu]
  rw [if_neg (by simp [h1, h2])]
  rfl

/-- What follows a CPU part that raised a mark. -/
theorem State.afterCpu_marked (s : State) {t : State} (h : t.fatal ≠ none ∨ t.refused ≠ none) : s.afterCpu (.next t) = .next { s with fatal := t.fatal, refused := t.refused } := by
  simp only [State.afterCpu]
  rw [if_pos (by simpa [Option.isSome_iff_ne_none] using h)]
  rfl

/-- No cycle, no change. -/
theorem State.ppuAdvance_zero (s : State) : s.ppuAdvance 0 = s := by
  unfold State.ppuAdvance Video.run Video.ticks; split <;> rfl

/-- The devices advance by the cycles of the CPU part. -/
theorem State.elapse_eq (s : State) : s.elapse = s.devices s.cycles := rfl

/-- A read of an address that gives a byte. -/
theorem State.read_byte {s : State} {a : Word} {b : Byte} (h : s.peek a = .byte b) : s.read a = .ok (b, s) := by
  unfold State.read; rw [h]; rfl

/-- Reading bytes that the bus gives. -/
theorem State.readBytes_peek (s : State) : ∀ (bs : List Byte) (a : Word), (∀ k, k < bs.length → s.peek (a + BitVec.ofNat 16 k) = .byte (bs.getD k 0)) → State.readBytes bs.length a s = .ok (bs, s) := by
  intro bs
  induction bs with
  | nil => intro a _; rfl
  | cons b bs ih =>
    intro a h
    have h0 := h 0 (by simp)
    rw [show a + BitVec.ofNat 16 0 = a by simp] at h0
    simp only [List.getD_cons_zero] at h0
    unfold State.readBytes
    show (s.read a >>= _) = _
    rw [State.read_byte h0]
    have := ih (a + 1) (fun k hk => by
      have := h (k+1) (by simpa using hk)
      rw [show a + 1 + BitVec.ofNat 16 k = a + BitVec.ofNat 16 (k+1) by rw [Nat.add_comm k 1, BitVec.ofNat_add, BitVec.add_assoc]; rfl]
      simpa using this)
    show (State.readBytes bs.length (a+1) s >>= _) = _
    rw [this]; rfl

/-- Fetching bytes that decode gives the instruction. -/
theorem State.fetch_decoded (s : State) (i : Instr) (bytes : List Byte) (hd : decode bytes = .ok (i, [])) (hw : i.wellFormed = true)
    (hp : ∀ k, k < bytes.length → s.peek (s.fetchAddr k) = .byte (bytes.getD k 0)) : s.fetch = .ok (i, s) := by
  cases bytes with
  | nil => cases hd
  | cons op rest =>
    simp only [decode] at hd
    by_cases h1 : op = 0xCB#8 ∧ rest = []
    · rw [if_pos h1] at hd
      cases hd; exact absurd hw (by decide)
    · rw [if_neg h1] at hd
      by_cases h2 : rest.length + 1 < lengthOf op
      · rw [if_pos h2] at hd; cases hd
      · rw [if_neg h2] at hd
        simp only [Except.ok.injEq, Prod.mk.injEq, List.drop_eq_nil_iff] at hd
        have hlen : rest.length = lengthOf op - 1 := by omega
        have hp0 := hp 0 (by simp)
        unfold State.fetch State.fetchBytes
        have e1 : s.read s.pc = .ok (op, s) := State.read_byte (by simpa [State.fetchAddr] using hp0)
        have e2 : State.readBytes (lengthOf op - 1) s.operandAddr s = .ok (rest, s) := by
          rw [← hlen]
          refine State.readBytes_peek s rest _ fun k hk => ?_
          have := hp (k+1) (by simpa using hk)
          simpa [State.fetchAddr] using this
        simp only [e1]
        show ((State.readBytes (lengthOf op - 1) s.operandAddr s >>= fun x => _) >>= _) = _
        rw [e2]
        show Except.ok (decodeFetched (op :: rest), s) = _
        rw [← hd.1]; rfl

/-- The countdown of EI's delay. -/
theorem State.countdown_eq (s : State) : s.countdown = s.delayed := by
  unfold State.countdown State.delayed
  have : ∀ x : Fin 3, x = 0 ∨ x = 1 ∨ x = 2 := by decide
  rcases this s.eiDelay with h | h | h <;> simp only [h]
  · simp only [if_true]; rw [if_neg (by decide), if_neg (by decide), ← h]
  · simp
  · simp

/-- The lowest set bit (`60_exceptions.md` R1401). -/
theorem lowestBit_eq (p : BitVec 5) (k : Nat) (hk : k < 5) (h : p.getLsbD k = true) (hj : ∀ j, j < k → p.getLsbD j = false) : lowestBit p = k := by
  unfold lowestBit
  interval_cases k
  · simp [h]
  · rw [hj 0 (by omega), h]; rfl
  · rw [hj 0 (by omega), hj 1 (by omega), h]; rfl
  · rw [hj 0 (by omega), hj 1 (by omega), hj 2 (by omega), h]; rfl
  · rw [hj 0 (by omega), hj 1 (by omega), hj 2 (by omega), hj 3 (by omega)]; rfl

end Sys2Proof.Machine
end

