-- ==== Sys2Proof/Laws/Inv.lean ====
section
/-! SUPPORT. What each part of a step does to the invariant: a tick of the picture unit, a write, the timer, the serial
event. -/

namespace Sys2Proof.Machine

/-! ### The picture unit -/

/-- `MODE3_LEN` is in its range (`00_scope.md` R20). -/
theorem Video.mode3Length_range (v : Video) (p : Ppu) : 172 ≤ v.mode3Length p ∧ v.mode3Length p ≤ 289 := by
  unfold Video.mode3Length
  split
  · omega
  · have := (Config.mode3Extra
      { ly := p.ly, lcdc := p.lcdc, scx := p.scx, scy := p.scy, wx := p.wx, wy := p.wy, winLine := p.winLine,
        oam := v.oam }).isLt
    omega

/-- The framebuffer has its shape (`10_state.md` R191). -/
def Ppu.Shaped (p : Ppu) : Prop := p.fb.length = 144 ∧ ∀ row ∈ p.fb, row.length = 160

/-- Rendering a row keeps the framebuffer's shape. -/
theorem Video.renderLine_shaped (v : Video) {p : Ppu} (y : Nat) (h : p.Shaped) : (v.renderLine p y).Shaped := by
  refine ⟨by simpa [Video.renderLine] using h.1, fun row hr => ?_⟩
  rcases List.mem_or_eq_of_mem_set hr with hr | rfl
  · exact h.2 row hr
  · simp

/-- Everything one tick of the picture unit does, with the display on: between the boundaries of `60_exceptions.md` R1600
only the dot moves; each boundary is one of four. -/
theorem Video.tick_cases (v : Video) (p : Ppu) (ifl : BitVec 5) (h : p.Scheduled) (hon : p.on = true) :
    (p.ly < 144 ∧ p.dot = 79 ∧
      v.tick (p, ifl) = ({ p with dot := 80, mode := .transfer, mode3Len := v.mode3Length { p with dot := 80 } }, ifl)) ∨
    (p.ly < 144 ∧ p.dot + 1 = 80 + p.mode3Len ∧ p.mode = .transfer ∧
      v.tick (p, ifl) =
        (v.renderLine { p with dot := p.dot + 1, mode := .hblank } p.ly, statRequest ifl p.selHblank)) ∨
    (p.dot = 455 ∧ v.tick (p, ifl) = nextLine ({ p with dot := 456 }, ifl)) ∨
    (p.dot < 455 ∧ (p.ly < 144 → p.dot ≠ 79 ∧ p.dot + 1 ≠ 80 + p.mode3Len) ∧
      v.tick (p, ifl) = ({ p with dot := p.dot + 1 }, ifl)) := by
  obtain ⟨h1, h2, h3, h4⟩ := h
  rw [if_pos hon] at h4
  obtain ⟨hd, hl, hm, hw⟩ := h4
  by_cases ha : p.ly < 144
  · by_cases hb : p.dot = 79
    · refine .inl ⟨ha, hb, ?_⟩
      simp [Video.tick, Video.enterTransfer, ha, hb]
    · by_cases hc : p.dot + 1 = 80 + p.mode3Len
      · refine .inr (.inl ⟨ha, hc, ?_, ?_⟩)
        · rw [hm, scheduledMode, if_neg (by omega), if_neg (by omega), if_pos (by omega)]
        · have e1 : ¬(p.dot + 1 = 80) := by omega
          have e2 : ¬((v.renderLine { p with dot := p.dot + 1, mode := .hblank } p.ly).dot = 456) := by
            show ¬(p.dot + 1 = 456); omega
          simp only [Video.tick, Video.enterHblank, if_pos ha, if_neg e1, if_pos hc, if_neg e2]
          rfl
      · by_cases hd' : p.dot = 455
        · refine .inr (.inr (.inl ⟨hd', ?_⟩))
          have e1 : ¬(456 = 80 + p.mode3Len) := by omega
          simp [Video.tick, ha, hd', e1]
        · refine .inr (.inr (.inr ⟨by omega, fun _ => ⟨hb, hc⟩, ?_⟩))
          have e1 : ¬(p.dot + 1 = 80) := by omega
          have e2 : ¬(p.dot + 1 = 456) := by omega
          simp only [Video.tick, if_pos ha, if_neg e1, if_neg hc, if_neg e2]
  · by_cases hd' : p.dot = 455
    · refine .inr (.inr (.inl ⟨hd', ?_⟩))
      simp [Video.tick, ha, hd']
    · refine .inr (.inr (.inr ⟨by omega, fun h => absurd h ha, ?_⟩))
      have e2 : ¬(p.dot + 1 = 456) := by omega
      simp only [Video.tick, if_neg ha, if_neg e2]

/-- Everything the start of a line does (`60_exceptions.md` R1601). -/
theorem nextLine_cases (p : Ppu) (ifl : BitVec 5) (h : p.ly ≤ 153) :
    (p.ly = 143 ∧ nextLine (p, ifl) = compareLy
      ({ p with dot := 0, ly := 144, mode := .vblank }, statRequest (requestBit ifl 0) p.selVblank)) ∨
    (p.ly = 153 ∧ nextLine (p, ifl) = compareLy
      ({ p with dot := 0, ly := 0, winLine := 0, mode := .oamScan }, statRequest ifl p.selOam)) ∨
    (p.ly < 143 ∧ nextLine (p, ifl) = compareLy
      ({ p with dot := 0, ly := p.ly + 1, mode := .oamScan }, statRequest ifl p.selOam)) ∨
    (144 ≤ p.ly ∧ p.ly < 153 ∧ nextLine (p, ifl) = compareLy ({ p with dot := 0, ly := p.ly + 1 }, ifl)) := by
  by_cases h1 : p.ly = 143
  · exact .inl ⟨h1, by simp [nextLine, h1, Ppu.selVblank]⟩
  · by_cases h2 : p.ly = 153
    · exact .inr (.inl ⟨h2, by simp [nextLine, h2, Ppu.selOam]⟩)
    · have e1 : ¬(p.ly + 1 = 144) := by omega
      have e2 : ¬(p.ly + 1 = 154) := by omega
      by_cases h3 : p.ly < 143
      · refine .inr (.inr (.inl ⟨h3, ?_⟩))
        simp only [nextLine, if_neg e1, if_neg e2, if_pos (show p.ly + 1 < 144 by omega)]
        rfl
      · refine .inr (.inr (.inr ⟨by omega, by omega, ?_⟩))
        simp only [nextLine, if_neg e1, if_neg e2, if_neg (show ¬(p.ly + 1 < 144) by omega)]

/-- The line comparison changes the coincidence flag and IF alone. -/
theorem compareLy_fst (x : PpuIf) : (compareLy x).1 = { x.1 with coinc := x.1.ly == x.1.lyc.toNat } := rfl

/-- A tick keeps the display on or off. -/
theorem Video.tick_lcdc (v : Video) (x : PpuIf) : (v.tick x).1.lcdc = x.1.lcdc := by
  have hn (y : PpuIf) : (nextLine y).1.lcdc = y.1.lcdc := by
    simp only [nextLine, compareLy_fst, apply_ite Prod.fst, apply_ite Ppu.lcdc, ite_self]
  have hh (y : PpuIf) : (v.enterHblank y).1.lcdc = y.1.lcdc := rfl
  have ht (y : PpuIf) : (v.enterTransfer y).1.lcdc = y.1.lcdc := rfl
  simp only [Video.tick, apply_ite Prod.fst, apply_ite Ppu.lcdc, hn, hh, ht, ite_self]

/-- A tick keeps the schedule. -/
theorem Video.tick_scheduled (v : Video) {p : Ppu} (ifl : BitVec 5) (h : p.Scheduled) (hon : p.on = true) :
    (v.tick (p, ifl)).1.Scheduled := by
  have h' := h
  obtain ⟨h1, h2, h3, h4⟩ := h
  rw [if_pos hon] at h4
  obtain ⟨hd, hl, hm, hw⟩ := h4
  rcases v.tick_cases p ifl h' hon with ⟨ha, hb, e⟩ | ⟨ha, hb, hmode, e⟩ | ⟨hb, e⟩ | ⟨hb, hc, e⟩ <;> rw [e]
  · have hr := v.mode3Length_range { p with dot := 80 }
    have hmm : p.mode = .oamScan := by rw [hm, scheduledMode, if_neg (by omega), if_pos (by omega)]
    refine ⟨hr.1, hr.2, h3, ?_⟩
    rw [if_pos (by exact hon)]
    refine ⟨by simp, hl, ?_, fun _ => ?_⟩
    · rw [scheduledMode, if_neg (by simpa using ha), if_neg (by simp), if_pos (by simp; omega)]
    · have := hw ha
      rw [hmm] at this
      simpa using this
  · have := hw ha
    rw [hmode] at this
    simp only [reduceCtorEq, if_false, Nat.add_zero] at this
    have hwin : (v.renderLine { p with dot := p.dot + 1, mode := .hblank } p.ly).winLine ≤ p.ly + 1 := by
      unfold Video.renderLine nextWinLine
      dsimp only
      split <;> omega
    have hwin' : (v.renderLine { p with dot := p.dot + 1, mode := .hblank } p.ly).winLine ≤ 143 := by
      unfold Video.renderLine nextWinLine
      dsimp only
      split <;> omega
    refine ⟨h1, h2, hwin', ?_⟩
    rw [if_pos (by exact hon)]
    refine ⟨by show p.dot + 1 ≤ 455; omega, hl, ?_, fun _ => ?_⟩
    · show PpuMode.hblank = scheduledMode p.ly (p.dot + 1) p.mode3Len
      rw [scheduledMode, if_neg (by omega), if_neg (by omega), if_neg (by omega)]
    · exact hwin
  · have hdot : p.ly < 144 → p.mode = .hblank := fun ha => by
      rw [hm, scheduledMode, if_neg (by omega), if_neg (by omega), if_neg (by omega)]
    rcases nextLine_cases { p with dot := 456 } ifl hl with ⟨ha, e⟩ | ⟨ha, e⟩ | ⟨ha, e⟩ | ⟨ha, hc, e⟩ <;>
      rw [e, compareLy_fst]
    · refine ⟨h1, h2, h3, ?_⟩
      rw [if_pos (by exact hon)]
      exact ⟨by simp, by simp, rfl, fun h => absurd h (by simp)⟩
    · refine ⟨h1, h2, by simp, ?_⟩
      rw [if_pos (by exact hon)]
      exact ⟨by simp, by simp, rfl, fun _ => by simp⟩
    · refine ⟨h1, h2, h3, ?_⟩
      rw [if_pos (by exact hon)]
      simp only at ha
      refine ⟨by simp, by simp only; omega, ?_, fun _ => ?_⟩
      · show PpuMode.oamScan = scheduledMode (p.ly + 1) 0 p.mode3Len
        rw [scheduledMode, if_neg (by omega), if_pos (by omega)]
      · have := hw (by omega)
        rw [hdot (by omega)] at this
        simpa using this
    · refine ⟨h1, h2, h3, ?_⟩
      rw [if_pos (by exact hon)]
      simp only at ha hc
      refine ⟨by simp, by simp only; omega, ?_, fun h => ?_⟩
      · show p.mode = scheduledMode (p.ly + 1) 0 p.mode3Len
        rw [hm, scheduledMode, scheduledMode, if_pos ha, if_pos (by omega)]
      · simp only at h; omega
  · refine ⟨h1, h2, h3, ?_⟩
    rw [if_pos (by exact hon)]
    refine ⟨by show p.dot + 1 ≤ 455; omega, hl, ?_, hw⟩
    show p.mode = scheduledMode p.ly (p.dot + 1) p.mode3Len
    rw [hm]
    unfold scheduledMode
    split
    · rfl
    · have := hc (by omega)
      repeat' split
      all_goals first | rfl | omega

/-- A tick keeps the framebuffer's shape. -/
theorem Video.tick_shaped (v : Video) {p : Ppu} (ifl : BitVec 5) (h : p.Scheduled) (hon : p.on = true) (hs : p.Shaped) :
    (v.tick (p, ifl)).1.Shaped := by
  have hl : p.ly ≤ 153 := by
    have := h.2.2.2
    rw [if_pos hon] at this
    exact this.2.1
  rcases v.tick_cases p ifl h hon with ⟨ha, hb, e⟩ | ⟨ha, hb, hmode, e⟩ | ⟨hb, e⟩ | ⟨hb, hc, e⟩ <;> rw [e]
  · exact hs
  · exact v.renderLine_shaped _ hs
  · rcases nextLine_cases { p with dot := 456 } ifl hl with ⟨ha, e⟩ | ⟨ha, e⟩ | ⟨ha, e⟩ | ⟨ha, hc, e⟩ <;> rw [e] <;> exact hs
  · exact hs

/-- Ticks keep the display on, the schedule and the framebuffer's shape. -/
theorem Video.ticks_inv (v : Video) (n : Nat) {x : PpuIf} (h : x.1.Scheduled) (hon : x.1.on = true) (hs : x.1.Shaped) :
    (v.ticks n x).1.Scheduled ∧ (v.ticks n x).1.on = true ∧ (v.ticks n x).1.Shaped := by
  induction n generalizing x with
  | zero => exact ⟨h, hon, hs⟩
  | succ n ih =>
    refine ih (v.tick_scheduled x.2 h hon) ?_ (v.tick_shaped x.2 h hon hs)
    rw [Ppu.on, Video.tick_lcdc]
    exact hon

/-! ### The whole invariant -/

/-- The devices' advance keeps the invariant. -/
theorem State.elapse_inv {s : State} (h : s.Inv) : s.elapse.Inv := by
  have hser (u : State) (n : Nat) (hu : u.Inv) : (u.serialAdvance n).Inv := by
    unfold State.serialAdvance State.serialEvent
    repeat' split
    all_goals exact hu
  have hppu (u : State) (n : Nat) (hu : u.Inv) : (u.ppuAdvance n).Inv := by
    obtain ⟨h1, h2, h3, ⟨h4, h5, h6⟩, h7⟩ := hu
    unfold State.ppuAdvance Video.run
    by_cases hon : u.ppu.on = true
    · simp only [if_pos hon]
      obtain ⟨i1, i2, i3⟩ := u.video.ticks_inv n (x := (u.ppu, u.ifl)) h3 hon ⟨h4, h5⟩
      exact ⟨h1, h2, i1, ⟨i3.1, i3.2, fun h => by rw [i2] at h; cases h⟩, h7⟩
    · simp only [if_neg hon]
      exact ⟨h1, h2, h3, ⟨h4, h5, h6⟩, h7⟩
  exact hser _ _ (hppu _ _ h)

/-- A controller command keeps the controller's type and never makes a bank latch illegal. -/
theorem Controller.command_legal (c : Controller) (a : Nat) (v : Byte) (h : c.badLatch = none) :
    (c.command a v).badLatch = none ∧ (∀ en romb, c.command a v = .mbc2 en romb → ∃ en' romb', c = .mbc2 en' romb') := by
  have hone {w : Nat} (x : BitVec (w + 1)) : (if atLeastOne x = 0 then some 0 else none) = (none : Option Nat) := by
    unfold atLeastOne
    split <;> simp_all
  have hrumble (x : BitVec 3) : ¬8 ≤ (x.setWidth 4).toNat := by
    have := x.isLt
    rw [BitVec.toNat_setWidth]
    omega
  unfold Controller.command
  cases c
  all_goals
    simp only [Controller.badLatch] at h
    dsimp only
    repeat' split
    all_goals first
      | exact ⟨rfl, by simp⟩
      | exact ⟨h, by simp⟩
      | exact ⟨hone _, by simp⟩
      | exact ⟨if_neg fun hr => hrumble _ hr.2, by simp⟩
      | exact ⟨if_neg fun hr => absurd hr.1 ‹_›, by simp⟩

/-- The offset a VRAM access reaches is below the size of VRAM. -/
theorem State.target_bounds {s : State} {a : Word} :
    (∀ i, s.target a = .vram i → i < if s.cfg.cgbMode then 0x4000 else 0x2000) ∧
    (∀ i, s.target a = .wram i → i < if s.cfg.cgbMode then 0x8000 else 0x2000) ∧
    (∀ i, s.target a = .oam i → i < 160) ∧ (∀ i, s.target a = .hram i → i < 127) := by
  have hv : s.vramBank ≤ if s.cfg.cgbMode then 1 else 0 := by
    unfold State.vramBank
    split
    · have := s.cgb.vbk.isLt; omega
    · exact Nat.le_refl 0
  have hw : s.wramBank ≤ if s.cfg.cgbMode then 7 else 1 := by
    unfold State.wramBank
    split
    · have := s.cgb.svbk.isLt
      omega
    · exact Nat.le_refl 1
  have ho (n : Nat) (h1 : 0xC000 ≤ n) (h2 : n ≤ 0xDFFF) : s.wramOffset n < if s.cfg.cgbMode then 0x8000 else 0x2000 := by
    unfold State.wramOffset
    cases hc : s.cfg.cgbMode <;> rw [hc] at hw <;> simp only [Bool.false_eq_true, if_false, if_true] at hw ⊢ <;> split <;> omega
  have ha := a.isLt
  refine ⟨fun i h => ?_, fun i h => ?_, fun i h => ?_, fun i h => ?_⟩ <;> unfold State.target at h <;> simp only at h <;>
    repeat' split at h
  all_goals first | (exfalso; simp only [reduceCtorEq] at h) | skip
  · rw [← Target.vram.inj h]
    cases hc : s.cfg.cgbMode <;> rw [hc] at hv <;> simp only [Bool.false_eq_true, if_false, if_true] at hv ⊢ <;> omega
  · rw [← Target.wram.inj h]
    exact ho _ (by omega) (by omega)
  · rw [← Target.wram.inj h]
    exact ho _ (by omega) (by omega)
  · rw [← Target.oam.inj h]
    omega
  · rw [← Target.hram.inj h]
    omega

/-- The cell an external RAM access reaches is below the size of the RAM. -/
theorem Cart.extTarget_bounds {c : Cart} {o i : Nat} (hm : ∀ en romb, c.ctrl = .mbc2 en romb → c.ramLen = 512)
    (h : c.extTarget o = .ram i ∨ c.extTarget o = .nibble i) : i < c.ramLen := by
  have hb (k : Nat) (h : ramBank c.ramLen k o = .ram i ∨ ramBank c.ramLen k o = .nibble i) : i < c.ramLen := by
    unfold ramBank at h
    split at h
    · rcases h with h | h <;> cases h
    · rcases h with h | h <;> cases h
      exact Nat.mod_lt _ (by omega)
  unfold Cart.extTarget at h
  cases hc : c.ctrl with
  | romOnly => rw [hc] at h; exact hb _ h
  | mbc2 en romb =>
    rw [hc] at h
    rw [hm en romb hc]
    cases en
    · rcases h with h | h <;> cases h
    · rcases h with h | h <;> cases h
      exact Nat.mod_lt _ (by omega)
  | mbc1 en b1 b2 md =>
    rw [hc] at h
    cases en
    · rcases h with h | h <;> cases h
    · exact hb _ h
  | mbc3 en romb ramb =>
    rw [hc] at h
    cases en
    · rcases h with h | h <;> cases h
    · simp only [if_true] at h
      split at h
      · exact hb _ h
      · split at h <;> rcases h with h | h <;> cases h
  | mbc5 ru en romb ramb =>
    rw [hc] at h
    cases en
    · rcases h with h | h <;> cases h
    · exact hb _ h

/-- A write of an I/O register keeps the invariant. -/
theorem State.writeIo_inv {s u : State} {r : IoReg} {v : Byte} (h : s.Inv) (hw : s.writeIo r v = .ok u) : u.Inv := by
  obtain ⟨⟨m1, m2, m3, m4, m5, m6, m7⟩, ⟨z1, z2, z3, z4, z5, z6, z7, z8⟩, hp, ⟨f1, f2, f3⟩, hl, hr⟩ := h
  have same : s.Inv := ⟨⟨m1, m2, m3, m4, m5, m6, m7⟩, ⟨z1, z2, z3, z4, z5, z6, z7, z8⟩, hp, ⟨f1, f2, f3⟩, hl, hr⟩
  cases r
  case key1 => simp only [State.writeIo] at hw; split at hw <;> cases hw; exact same
  case hdma5 => cases hw
  case bcpd =>
    cases hw
    exact ⟨⟨m1, m2, m3, m4, Memory.wf_write _ _ _ m5, m6, m7⟩,
      ⟨z1, z2, z3, z4, Memory.below_write _ _ _ _ z5 s.cgb.bcps.index.isLt, z6, z7, z8⟩, hp, ⟨f1, f2, f3⟩, hl, hr⟩
  case ocpd =>
    cases hw
    exact ⟨⟨m1, m2, m3, m4, m5, Memory.wf_write _ _ _ m6, m7⟩,
      ⟨z1, z2, z3, z4, z5, Memory.below_write _ _ _ _ z6 s.cgb.ocps.index.isLt, z7, z8⟩, hp, ⟨f1, f2, f3⟩, hl, hr⟩
  case lcdc =>
    cases hw
    obtain ⟨p1, p2, p3, p4⟩ := hp
    unfold State.writeLcdc
    dsimp only
    split
    · rename_i hc
      have hoff : Ppu.on { s.ppu with lcdc := v } = false := (Bool.not_eq_true' _).mp (Bool.and_eq_true_iff.mp hc).2
      refine ⟨⟨m1, m2, m3, m4, m5, m6, m7⟩, ⟨z1, z2, z3, z4, z5, z6, z7, z8⟩, ⟨p1, p2, p3, ?_⟩, ⟨?_, ?_, fun _ => rfl⟩, hl, hr⟩
      · rw [if_neg (by rw [Bool.not_eq_true]; exact hoff)]
        exact ⟨rfl, rfl, rfl⟩
      · exact List.length_replicate
      · intro row hrow
        rw [List.eq_of_mem_replicate hrow]
        exact List.length_replicate
    · split
      · rename_i hc
        have hon : Ppu.on { s.ppu with lcdc := v } = true := (Bool.and_eq_true_iff.mp hc).2
        refine ⟨⟨m1, m2, m3, m4, m5, m6, m7⟩, ⟨z1, z2, z3, z4, z5, z6, z7, z8⟩, ⟨p1, p2, by simp, ?_⟩, ⟨f1, f2, ?_⟩, hl, hr⟩
        · rw [if_pos (by exact hon)]
          exact ⟨by simp, by simp, rfl, fun _ => by simp⟩
        · intro h
          exact absurd (hon.symm.trans h) (by simp)
      · rename_i h1 h2
        have heq : Ppu.on { s.ppu with lcdc := v } = s.ppu.on := by
          generalize Ppu.on { s.ppu with lcdc := v } = x at h1 h2
          generalize s.ppu.on = y at h1 h2
          revert x y
          decide
        refine ⟨⟨m1, m2, m3, m4, m5, m6, m7⟩, ⟨z1, z2, z3, z4, z5, z6, z7, z8⟩, ⟨p1, p2, p3, ?_⟩, ⟨f1, f2, ?_⟩, hl, hr⟩
        · rw [heq]
          exact p4
        · intro h
          exact f3 (heq.symm.trans h)
  case lyc =>
    cases hw
    unfold State.writeLyc
    split <;> exact same
  case boot =>
    cases hw
    split <;> exact same
  all_goals cases hw; exact same

/-- A write keeps the invariant. -/
theorem State.write_inv {s u : State} {a : Word} {v : Byte} (h : s.Inv) (hw : s.write a v = .ok u) : u.Inv := by
  have h' := h
  obtain ⟨⟨m1, m2, m3, m4, m5, m6, m7⟩, ⟨z1, z2, z3, z4, z5, z6, z7, z8⟩, hp, hf, hl, hr⟩ := h
  obtain ⟨b1, b2, b3, b4⟩ := State.target_bounds (s := s) (a := a)
  refine State.write_cases hw (fun _ => ?_) (fun _ => h') (fun i n ht => ?_) (fun i w ht => ?_) (fun i ht => ?_)
    (fun i n ht => ?_) (fun i ht => ?_) (fun _ => h') (fun r w _ _ hw => State.writeIo_inv h' hw) (fun w _ _ hw => ?_)
  · obtain ⟨c1, c2⟩ := Controller.command_legal s.cart.ctrl a.toNat v hl
    refine ⟨⟨m1, m2, m3, m4, m5, m6, m7⟩, ⟨z1, z2, z3, z4, z5, z6, z7, fun en romb he => ?_⟩, hp, hf, c1, hr⟩
    obtain ⟨en', romb', he'⟩ := c2 en romb he
    exact z8 en' romb' he'
  · exact ⟨⟨Memory.wf_write _ _ _ m1, m2, m3, m4, m5, m6, m7⟩,
      ⟨Memory.below_write _ _ _ _ z1 (b1 i ht), z2, z3, z4, z5, z6, z7, z8⟩, hp, hf, hl, hr⟩
  · have hi : i < s.cart.ramLen := by
      rcases ht with ht | ht <;> obtain ⟨o, ho⟩ := State.target_ext ht
      · exact Cart.extTarget_bounds z8 (.inl ho)
      · exact Cart.extTarget_bounds z8 (.inr ho)
    exact ⟨⟨m1, m2, m3, m4, m5, m6, Memory.wf_write _ _ _ m7⟩,
      ⟨z1, z2, z3, z4, z5, z6, Memory.below_write _ _ _ _ z7 hi, z8⟩, hp, hf, hl, hr⟩
  · exact ⟨⟨m1, Memory.wf_write _ _ _ m2, m3, m4, m5, m6, m7⟩,
      ⟨z1, Memory.below_write _ _ _ _ z2 (b2 i ht), z3, z4, z5, z6, z7, z8⟩, hp, hf, hl, hr⟩
  · exact ⟨⟨m1, m2, Memory.wf_write _ _ _ m3, m4, m5, m6, m7⟩,
      ⟨z1, z2, Memory.below_write _ _ _ _ z3 (b3 i ht), z4, z5, z6, z7, z8⟩, hp, hf, hl, hr⟩
  · exact ⟨⟨m1, m2, m3, Memory.wf_write _ _ _ m4, m5, m6, m7⟩,
      ⟨z1, z2, z3, Memory.below_write _ _ _ _ z4 (b4 i ht), z5, z6, z7, z8⟩, hp, hf, hl, hr⟩
  · refine State.dmaCopy_induct (P := State.Inv) (fun _ _ h => h) (fun t i b hi ht => ?_) v 160 0 (by omega) hw h'
    obtain ⟨⟨m1, m2, m3, m4, m5, m6, m7⟩, ⟨z1, z2, z3, z4, z5, z6, z7, z8⟩, hp, hf, hl, hr⟩ := ht
    exact ⟨⟨m1, m2, Memory.wf_write _ _ _ m3, m4, m5, m6, m7⟩,
      ⟨z1, z2, Memory.below_write _ _ _ _ z3 hi, z4, z5, z6, z7, z8⟩, hp, hf, hl, hr⟩

end Sys2Proof.Machine
end

