-- ==== Sys2Proof/Laws/PerInstr.lean ====
section
/-! SUPPORT. What holds of every instruction as syntax, one lemma per constructor: its encoding has its length, and the
first byte alone tells that length (`30_encoding.md` R500). The prefix byte alone is no complete instruction. -/

namespace Sys2Proof.Laws.EncodeLength

/-- The encoding has the instruction's length, of one to three bytes, and for a complete instruction its first byte
tells that length. -/
def Statement (i : Instr) : Prop :=
  (encode i).length = i.length ∧ 1 ≤ i.length ∧ i.length ≤ 3 ∧
    (i.wellFormed = true → lengthOf ((encode i).getD 0 0) = i.length)

theorem of_bytes {i : Instr} {op : Byte} {rest : List Byte} (n : Nat) (h : encode i = op :: rest) (hi : i.length = n)
    (hr : rest.length + 1 = n) (h3 : n ≤ 3) (hw : i.wellFormed = true → lengthOf op = n) : Statement i := by
  subst hr
  unfold Statement
  rw [h, hi]
  exact ⟨rfl, by omega, h3, hw⟩

theorem addAR (r : Reg8) : Statement (.addAR r) :=
  by cases r <;> exact of_bytes 1 rfl rfl rfl (by decide) fun _ => rfl
theorem addAHl : Statement .addAHl := of_bytes 1 rfl rfl rfl (by decide) fun _ => rfl
theorem addAN (n : Byte) : Statement (.addAN n) := of_bytes 2 rfl rfl rfl (by decide) fun _ => rfl
theorem adcAR (r : Reg8) : Statement (.adcAR r) :=
  by cases r <;> exact of_bytes 1 rfl rfl rfl (by decide) fun _ => rfl
theorem adcAHl : Statement .adcAHl := of_bytes 1 rfl rfl rfl (by decide) fun _ => rfl
theorem adcAN (n : Byte) : Statement (.adcAN n) := of_bytes 2 rfl rfl rfl (by decide) fun _ => rfl
theorem subR (r : Reg8) : Statement (.subR r) :=
  by cases r <;> exact of_bytes 1 rfl rfl rfl (by decide) fun _ => rfl
theorem subHl : Statement .subHl := of_bytes 1 rfl rfl rfl (by decide) fun _ => rfl
theorem subN (n : Byte) : Statement (.subN n) := of_bytes 2 rfl rfl rfl (by decide) fun _ => rfl
theorem sbcAR (r : Reg8) : Statement (.sbcAR r) :=
  by cases r <;> exact of_bytes 1 rfl rfl rfl (by decide) fun _ => rfl
theorem sbcAHl : Statement .sbcAHl := of_bytes 1 rfl rfl rfl (by decide) fun _ => rfl
theorem sbcAN (n : Byte) : Statement (.sbcAN n) := of_bytes 2 rfl rfl rfl (by decide) fun _ => rfl
theorem andR (r : Reg8) : Statement (.andR r) :=
  by cases r <;> exact of_bytes 1 rfl rfl rfl (by decide) fun _ => rfl
theorem andHl : Statement .andHl := of_bytes 1 rfl rfl rfl (by decide) fun _ => rfl
theorem andN (n : Byte) : Statement (.andN n) := of_bytes 2 rfl rfl rfl (by decide) fun _ => rfl
theorem xorR (r : Reg8) : Statement (.xorR r) :=
  by cases r <;> exact of_bytes 1 rfl rfl rfl (by decide) fun _ => rfl
theorem xorHl : Statement .xorHl := of_bytes 1 rfl rfl rfl (by decide) fun _ => rfl
theorem xorN (n : Byte) : Statement (.xorN n) := of_bytes 2 rfl rfl rfl (by decide) fun _ => rfl
theorem orR (r : Reg8) : Statement (.orR r) :=
  by cases r <;> exact of_bytes 1 rfl rfl rfl (by decide) fun _ => rfl
theorem orHl : Statement .orHl := of_bytes 1 rfl rfl rfl (by decide) fun _ => rfl
theorem orN (n : Byte) : Statement (.orN n) := of_bytes 2 rfl rfl rfl (by decide) fun _ => rfl
theorem cpR (r : Reg8) : Statement (.cpR r) :=
  by cases r <;> exact of_bytes 1 rfl rfl rfl (by decide) fun _ => rfl
theorem cpHl : Statement .cpHl := of_bytes 1 rfl rfl rfl (by decide) fun _ => rfl
theorem cpN (n : Byte) : Statement (.cpN n) := of_bytes 2 rfl rfl rfl (by decide) fun _ => rfl
theorem incR (r : Reg8) : Statement (.incR r) :=
  by cases r <;> exact of_bytes 1 rfl rfl rfl (by decide) fun _ => rfl
theorem incHl : Statement .incHl := of_bytes 1 rfl rfl rfl (by decide) fun _ => rfl
theorem decR (r : Reg8) : Statement (.decR r) :=
  by cases r <;> exact of_bytes 1 rfl rfl rfl (by decide) fun _ => rfl
theorem decHl : Statement .decHl := of_bytes 1 rfl rfl rfl (by decide) fun _ => rfl
theorem daa : Statement .daa := of_bytes 1 rfl rfl rfl (by decide) fun _ => rfl
theorem cpl : Statement .cpl := of_bytes 1 rfl rfl rfl (by decide) fun _ => rfl
theorem scf : Statement .scf := of_bytes 1 rfl rfl rfl (by decide) fun _ => rfl
theorem ccf : Statement .ccf := of_bytes 1 rfl rfl rfl (by decide) fun _ => rfl
theorem addHlRr (p : Reg16) : Statement (.addHlRr p) :=
  by cases p <;> exact of_bytes 1 rfl rfl rfl (by decide) fun _ => rfl
theorem incRr (p : Reg16) : Statement (.incRr p) :=
  by cases p <;> exact of_bytes 1 rfl rfl rfl (by decide) fun _ => rfl
theorem decRr (p : Reg16) : Statement (.decRr p) :=
  by cases p <;> exact of_bytes 1 rfl rfl rfl (by decide) fun _ => rfl
theorem addSpE (e : Byte) : Statement (.addSpE e) := of_bytes 2 rfl rfl rfl (by decide) fun _ => rfl
theorem ldHlSpE (e : Byte) : Statement (.ldHlSpE e) := of_bytes 2 rfl rfl rfl (by decide) fun _ => rfl
theorem rlca : Statement .rlca := of_bytes 1 rfl rfl rfl (by decide) fun _ => rfl
theorem rrca : Statement .rrca := of_bytes 1 rfl rfl rfl (by decide) fun _ => rfl
theorem rla : Statement .rla := of_bytes 1 rfl rfl rfl (by decide) fun _ => rfl
theorem rra : Statement .rra := of_bytes 1 rfl rfl rfl (by decide) fun _ => rfl
theorem rlcR (r : Reg8) : Statement (.rlcR r) :=
  by cases r <;> exact of_bytes 2 rfl rfl rfl (by decide) fun _ => rfl
theorem rlcHl : Statement .rlcHl := of_bytes 2 rfl rfl rfl (by decide) fun _ => rfl
theorem rrcR (r : Reg8) : Statement (.rrcR r) :=
  by cases r <;> exact of_bytes 2 rfl rfl rfl (by decide) fun _ => rfl
theorem rrcHl : Statement .rrcHl := of_bytes 2 rfl rfl rfl (by decide) fun _ => rfl
theorem rlR (r : Reg8) : Statement (.rlR r) :=
  by cases r <;> exact of_bytes 2 rfl rfl rfl (by decide) fun _ => rfl
theorem rlHl : Statement .rlHl := of_bytes 2 rfl rfl rfl (by decide) fun _ => rfl
theorem rrR (r : Reg8) : Statement (.rrR r) :=
  by cases r <;> exact of_bytes 2 rfl rfl rfl (by decide) fun _ => rfl
theorem rrHl : Statement .rrHl := of_bytes 2 rfl rfl rfl (by decide) fun _ => rfl
theorem slaR (r : Reg8) : Statement (.slaR r) :=
  by cases r <;> exact of_bytes 2 rfl rfl rfl (by decide) fun _ => rfl
theorem slaHl : Statement .slaHl := of_bytes 2 rfl rfl rfl (by decide) fun _ => rfl
theorem sraR (r : Reg8) : Statement (.sraR r) :=
  by cases r <;> exact of_bytes 2 rfl rfl rfl (by decide) fun _ => rfl
theorem sraHl : Statement .sraHl := of_bytes 2 rfl rfl rfl (by decide) fun _ => rfl
theorem swapR (r : Reg8) : Statement (.swapR r) :=
  by cases r <;> exact of_bytes 2 rfl rfl rfl (by decide) fun _ => rfl
theorem swapHl : Statement .swapHl := of_bytes 2 rfl rfl rfl (by decide) fun _ => rfl
theorem srlR (r : Reg8) : Statement (.srlR r) :=
  by cases r <;> exact of_bytes 2 rfl rfl rfl (by decide) fun _ => rfl
theorem srlHl : Statement .srlHl := of_bytes 2 rfl rfl rfl (by decide) fun _ => rfl
theorem bitR (k : BitVec 3) (r : Reg8) : Statement (.bitR k r) :=
  by cases r <;> exact of_bytes 2 rfl rfl rfl (by decide) fun _ => rfl
theorem bitHl (k : BitVec 3) : Statement (.bitHl k) := of_bytes 2 rfl rfl rfl (by decide) fun _ => rfl
theorem resR (k : BitVec 3) (r : Reg8) : Statement (.resR k r) :=
  by cases r <;> exact of_bytes 2 rfl rfl rfl (by decide) fun _ => rfl
theorem resHl (k : BitVec 3) : Statement (.resHl k) := of_bytes 2 rfl rfl rfl (by decide) fun _ => rfl
theorem setR (k : BitVec 3) (r : Reg8) : Statement (.setR k r) :=
  by cases r <;> exact of_bytes 2 rfl rfl rfl (by decide) fun _ => rfl
theorem setHl (k : BitVec 3) : Statement (.setHl k) := of_bytes 2 rfl rfl rfl (by decide) fun _ => rfl
theorem ldRR (dst : Reg8) (src : Reg8) : Statement (.ldRR dst src) :=
  by cases dst <;> cases src <;> exact of_bytes 1 rfl rfl rfl (by decide) fun _ => rfl
theorem ldRHl (dst : Reg8) : Statement (.ldRHl dst) :=
  by cases dst <;> exact of_bytes 1 rfl rfl rfl (by decide) fun _ => rfl
theorem ldHlR (src : Reg8) : Statement (.ldHlR src) :=
  by cases src <;> exact of_bytes 1 rfl rfl rfl (by decide) fun _ => rfl
theorem ldRN (dst : Reg8) (n : Byte) : Statement (.ldRN dst n) :=
  by cases dst <;> exact of_bytes 2 rfl rfl rfl (by decide) fun _ => rfl
theorem ldHlN (n : Byte) : Statement (.ldHlN n) := of_bytes 2 rfl rfl rfl (by decide) fun _ => rfl
theorem ldABc : Statement .ldABc := of_bytes 1 rfl rfl rfl (by decide) fun _ => rfl
theorem ldADe : Statement .ldADe := of_bytes 1 rfl rfl rfl (by decide) fun _ => rfl
theorem ldAHli : Statement .ldAHli := of_bytes 1 rfl rfl rfl (by decide) fun _ => rfl
theorem ldAHld : Statement .ldAHld := of_bytes 1 rfl rfl rfl (by decide) fun _ => rfl
theorem ldBcA : Statement .ldBcA := of_bytes 1 rfl rfl rfl (by decide) fun _ => rfl
theorem ldDeA : Statement .ldDeA := of_bytes 1 rfl rfl rfl (by decide) fun _ => rfl
theorem ldHliA : Statement .ldHliA := of_bytes 1 rfl rfl rfl (by decide) fun _ => rfl
theorem ldHldA : Statement .ldHldA := of_bytes 1 rfl rfl rfl (by decide) fun _ => rfl
theorem ldAA16 (nn : Word) : Statement (.ldAA16 nn) := of_bytes 3 rfl rfl rfl (by decide) fun _ => rfl
theorem ldA16A (nn : Word) : Statement (.ldA16A nn) := of_bytes 3 rfl rfl rfl (by decide) fun _ => rfl
theorem ldhAA8 (n : Byte) : Statement (.ldhAA8 n) := of_bytes 2 rfl rfl rfl (by decide) fun _ => rfl
theorem ldhA8A (n : Byte) : Statement (.ldhA8A n) := of_bytes 2 rfl rfl rfl (by decide) fun _ => rfl
theorem ldhAC : Statement .ldhAC := of_bytes 1 rfl rfl rfl (by decide) fun _ => rfl
theorem ldhCA : Statement .ldhCA := of_bytes 1 rfl rfl rfl (by decide) fun _ => rfl
theorem ldRrN (p : Reg16) (nn : Word) : Statement (.ldRrN p nn) :=
  by cases p <;> exact of_bytes 3 rfl rfl rfl (by decide) fun _ => rfl
theorem ldA16Sp (nn : Word) : Statement (.ldA16Sp nn) := of_bytes 3 rfl rfl rfl (by decide) fun _ => rfl
theorem ldSpHl : Statement .ldSpHl := of_bytes 1 rfl rfl rfl (by decide) fun _ => rfl
theorem jp (nn : Word) : Statement (.jp nn) := of_bytes 3 rfl rfl rfl (by decide) fun _ => rfl
theorem jpCc (cc : Cond) (nn : Word) : Statement (.jpCc cc nn) :=
  by cases cc <;> exact of_bytes 3 rfl rfl rfl (by decide) fun _ => rfl
theorem jpHl : Statement .jpHl := of_bytes 1 rfl rfl rfl (by decide) fun _ => rfl
theorem jr (e : Byte) : Statement (.jr e) := of_bytes 2 rfl rfl rfl (by decide) fun _ => rfl
theorem jrCc (cc : Cond) (e : Byte) : Statement (.jrCc cc e) :=
  by cases cc <;> exact of_bytes 2 rfl rfl rfl (by decide) fun _ => rfl
theorem call (nn : Word) : Statement (.call nn) := of_bytes 3 rfl rfl rfl (by decide) fun _ => rfl
theorem callCc (cc : Cond) (nn : Word) : Statement (.callCc cc nn) :=
  by cases cc <;> exact of_bytes 3 rfl rfl rfl (by decide) fun _ => rfl
theorem ret : Statement .ret := of_bytes 1 rfl rfl rfl (by decide) fun _ => rfl
theorem retCc (cc : Cond) : Statement (.retCc cc) :=
  by cases cc <;> exact of_bytes 1 rfl rfl rfl (by decide) fun _ => rfl
theorem reti : Statement .reti := of_bytes 1 rfl rfl rfl (by decide) fun _ => rfl
theorem rst (t : BitVec 3) : Statement (.rst t) :=
  by obtain ⟨t⟩ := t; fin_cases t <;> exact of_bytes 1 rfl rfl rfl (by decide) fun _ => rfl
theorem push (q : Reg16Stk) : Statement (.push q) :=
  by cases q <;> exact of_bytes 1 rfl rfl rfl (by decide) fun _ => rfl
theorem pop (q : Reg16Stk) : Statement (.pop q) :=
  by cases q <;> exact of_bytes 1 rfl rfl rfl (by decide) fun _ => rfl
theorem nop : Statement .nop := of_bytes 1 rfl rfl rfl (by decide) fun _ => rfl
theorem stop (x : Byte) : Statement (.stop x) := of_bytes 2 rfl rfl rfl (by decide) fun _ => rfl
theorem halt : Statement .halt := of_bytes 1 rfl rfl rfl (by decide) fun _ => rfl
theorem di : Statement .di := of_bytes 1 rfl rfl rfl (by decide) fun _ => rfl
theorem ei : Statement .ei := of_bytes 1 rfl rfl rfl (by decide) fun _ => rfl
theorem prefixCb : Statement .prefixCb := of_bytes 1 rfl rfl rfl (by decide) fun h => absurd h (by decide)
theorem illegalD3 : Statement .illegalD3 := of_bytes 1 rfl rfl rfl (by decide) fun _ => rfl
theorem illegalDB : Statement .illegalDB := of_bytes 1 rfl rfl rfl (by decide) fun _ => rfl
theorem illegalDD : Statement .illegalDD := of_bytes 1 rfl rfl rfl (by decide) fun _ => rfl
theorem illegalE3 : Statement .illegalE3 := of_bytes 1 rfl rfl rfl (by decide) fun _ => rfl
theorem illegalE4 : Statement .illegalE4 := of_bytes 1 rfl rfl rfl (by decide) fun _ => rfl
theorem illegalEB : Statement .illegalEB := of_bytes 1 rfl rfl rfl (by decide) fun _ => rfl
theorem illegalEC : Statement .illegalEC := of_bytes 1 rfl rfl rfl (by decide) fun _ => rfl
theorem illegalED : Statement .illegalED := of_bytes 1 rfl rfl rfl (by decide) fun _ => rfl
theorem illegalF4 : Statement .illegalF4 := of_bytes 1 rfl rfl rfl (by decide) fun _ => rfl
theorem illegalFC : Statement .illegalFC := of_bytes 1 rfl rfl rfl (by decide) fun _ => rfl
theorem illegalFD : Statement .illegalFD := of_bytes 1 rfl rfl rfl (by decide) fun _ => rfl

end Sys2Proof.Laws.EncodeLength
end

