-- ==== Sys2Proof/Laws/Render.lean ====
section
/-! SUPPORT. The renderer's lookups as the numbers the claims write. -/

namespace Sys2Proof.Machine

/-- A tile's color index, in a bank (`60_exceptions.md` R1621). -/
theorem Video.tileColor_toNat (v : Video) (bank t row col : Nat) :
    (v.tileColor bank t row col).toNat = tileIndex v (bank * 0x2000 + t) row col := by
  have h : ∀ hi lo : Bool, (BitVec.ofBool hi ++ BitVec.ofBool lo).toNat = 2 * hi.toNat + lo.toNat := by decide
  exact h _ _

/-- A palette memory's color (`10_state.md` R137). -/
theorem paletteColor_toNat (mem : Memory) (r : Region) (n : Nat) (i : BitVec 2) :
    (paletteColor mem r n i).toNat = paletteEntry (Memory.get mem (Config.initMem r)) n i.toNat := by
  simp only [paletteColor, paletteEntry, word, BitVec.extractLsb'_toNat, BitVec.toNat_append, Nat.shiftRight_zero]
  rw [Nat.shiftLeft_eq, Nat.mul_comm, ← Nat.two_pow_add_eq_or_of_lt (BitVec.isLt _)]
  congr 1
  omega

/-- A DMG palette's shade (`10_state.md` R167). -/
theorem shadeOf_toNat (pal : Byte) (i : BitVec 2) : (shadeOf pal i).toNat = pal.toNat / 4 ^ i.toNat % 4 := by
  simp only [shadeOf, BitVec.toNat_setWidth, BitVec.extractLsb'_toNat, Nat.shiftRight_eq_div_pow, Nat.pow_mul]
  show pal.toNat / 4 ^ i.toNat % 4 % 32768 = _
  omega

/-- The tile a background or window cell names (`60_exceptions.md` R1621). -/
theorem bgTileOffset_eq (lcdc t : Byte) : bgTileOffset lcdc t =
    if lcdc.getLsbD 4 then 16 * t.toNat else if t.toNat < 128 then 0x1000 + 16 * t.toNat else 16 * t.toNat := by
  unfold bgTileOffset
  split
  · rfl
  · rw [BitVec.toInt_eq_toNat_cond]
    split <;> split <;> omega

/-- The window's line counter stays in its range (`10_state.md` R191). -/
theorem nextWinLine_le (n : Nat) : nextWinLine n ≤ 143 := by
  unfold nextWinLine
  omega

/-- Rendering a row leaves the length of mode 3 (`60_exceptions.md` R1620). -/
@[simp] theorem Video.renderLine_mode3Len (v : Video) (p : Ppu) (y : Nat) : (v.renderLine p y).mode3Len = p.mode3Len := rfl

/-- The start of a line leaves the length of mode 3, which dot 80 takes anew (`60_exceptions.md` R1601). -/
@[simp] theorem nextLine_mode3Len (x : PpuIf) : (nextLine x).1.mode3Len = x.1.mode3Len := by
  unfold nextLine compareLy
  dsimp only
  split_ifs <;> rfl

end Sys2Proof.Machine
end

