-- ==== Sys2Proof/Laws/Timer.lean ====
section
/-! SUPPORT. Everything the timer's advance can do. -/

namespace Sys2Proof.Machine

/-- Advances add up (`60_exceptions.md` R1509). -/
theorem timerRun_add (m n : Nat) (t : Timer) (i : BitVec 5) : timerRun (m + n) t i = timerRun n (timerRun m t i).1 (timerRun m t i).2 := by
  induction m generalizing t i with
  | zero => simp [timerRun]
  | succ m ih => rw [Nat.add_right_comm]; exact ih _ _

/-- A cycle of the timer counts, and changes nothing else but TIMA. -/
theorem timerTick_rest (t : Timer) (i : BitVec 5) : (timerTick t i).1 = { t with counter := t.counter + 1, tima := (timerTick t i).1.tima } := by
  unfold timerTick edge incTima
  split
  · split <;> rfl
  · rfl

/-- Cycles of the timer count, and change nothing else but TIMA. -/
theorem timerRun_rest (n : Nat) (t : Timer) (i : BitVec 5) : (timerRun n t i).1 = { t with counter := t.counter + BitVec.ofNat 16 n, tima := (timerRun n t i).1.tima } := by
  induction n generalizing t i with
  | zero => simp [timerRun]
  | succ n ih =>
    rw [timerRun, ih]
    rw [timerTick_rest]
    simp only
    rw [BitVec.add_assoc, show (1 : BitVec 16) + BitVec.ofNat 16 n = BitVec.ofNat 16 (n+1) by rw [Nat.add_comm, BitVec.ofNat_add]; rfl]

/-- The four taps (`60_exceptions.md` R1502). -/
theorem tapBit_cases (k : BitVec 3) : tapBit k = 9 ∨ tapBit k = 3 ∨ tapBit k = 5 ∨ tapBit k = 7 := by
  unfold tapBit; split; simp; split; simp; split <;> simp

/-- A bit of a number. -/
theorem getLsbD_ofNat_eq (c b : Nat) : (BitVec.ofNat 16 c).getLsbD b = (decide (b < 16) && decide (c / 2 ^ b % 2 = 1)) := by
  rw [BitVec.getLsbD_ofNat, Nat.testBit_eq_decide_div_mod_eq]

/-- A bit falls when the count reaches a multiple of twice its weight. -/
theorem counter_falls (c : BitVec 16) (b : Nat) (hb : b < 16) : (c.getLsbD b && !(c + 1).getLsbD b) = decide ((c.toNat + 1) % 2 ^ (b + 1) = 0) := by
  have h1 : c.getLsbD b = decide (c.toNat / 2 ^ b % 2 = 1) := by rw [BitVec.getLsbD, Nat.testBit_eq_decide_div_mod_eq]
  have h2 : (c + 1).getLsbD b = decide ((c.toNat + 1) / 2 ^ b % 2 = 1) := by
    have : c + 1 = BitVec.ofNat 16 (c.toNat + 1) := by
      apply BitVec.eq_of_toNat_eq; simp
    rw [this, getLsbD_ofNat_eq]; simp [hb]
  rw [h1, h2]
  generalize c.toNat = n
  clear h1 h2 c
  rw [Bool.eq_iff_iff]
  simp only [Bool.and_eq_true, decide_eq_true_eq, Bool.not_eq_true', decide_eq_false_iff_not]
  interval_cases b <;> omega

/-- A cycle of an enabled timer. -/
theorem timerTick_enabled (t : Timer) (i : BitVec 5) (h : t.tac.getLsbD 2 = true) : timerTick t i = if (t.counter.toNat + 1) % 2 ^ (tapBit t.tac + 1) = 0 then incTima { t with counter := t.counter + 1 } i else ({ t with counter := t.counter + 1 }, i) := by
  unfold timerTick edge
  have : (t.sig && !Timer.sig { t with counter := t.counter + 1 }) = decide ((t.counter.toNat + 1) % 2 ^ (tapBit t.tac + 1) = 0) := by
    rw [← counter_falls _ _ (by rcases tapBit_cases t.tac with h | h | h | h <;> rw [h] <;> omega), Timer.sig_eq, Timer.sig_eq]
    simp only [tapSignal, h, Bool.true_and]
  rw [this]; simp only [decide_eq_true_eq]

/-- Cycles of an enabled timer that does not overflow: TIMA counts the falls, nothing is requested. -/
theorem timerRun_count (n : Nat) (t : Timer) (i : BitVec 5) (h : t.tac.getLsbD 2 = true)
   (hle : t.tima.toNat + ((t.counter.toNat + n) / 2 ^ (tapBit t.tac + 1) - t.counter.toNat / 2 ^ (tapBit t.tac + 1)) ≤ 255) :
   (timerRun n t i).1.tima.toNat = t.tima.toNat + ((t.counter.toNat + n) / 2 ^ (tapBit t.tac + 1) - t.counter.toNat / 2 ^ (tapBit t.tac + 1)) ∧ (timerRun n t i).2 = i := by
  induction n generalizing t i with
  | zero => simp [timerRun]
  | succ n ih =>
    have hpd : ∃ q, 2 ^ (tapBit t.tac + 1) * q = 65536 ∧ 0 < 2 ^ (tapBit t.tac + 1) := by
      rcases tapBit_cases t.tac with h | h | h | h <;> rw [h]
      · exact ⟨64, by decide⟩
      · exact ⟨4096, by decide⟩
      · exact ⟨1024, by decide⟩
      · exact ⟨256, by decide⟩
    obtain ⟨q, hq, hpos⟩ := hpd
    have hc := t.counter.isLt
    have hcn : (t.counter + 1).toNat = (t.counter.toNat + 1) % 65536 := by simp
    rw [timerRun]
    have key : ∀ P c : Nat, 0 < P → P * q = 65536 → c < 65536 → ((c + 1) % 65536 + n) / P - (c + 1) % 65536 / P = (c + (n+1)) / P - (c + 1) / P := by
      intro P c hP hPq hc
      by_cases hw : c + 1 = 65536
      · rw [hw, show c + (n + 1) = n + P * q by omega, Nat.add_mul_div_left _ _ hP, ← hPq, Nat.mul_div_cancel_left _ hP]; simp
      · rw [Nat.mod_eq_of_lt (by omega)]; congr 2; omega
    have hmono : (t.counter.toNat + 1) / 2 ^ (tapBit t.tac + 1) ≤ (t.counter.toNat + (n + 1)) / 2 ^ (tapBit t.tac + 1) := Nat.div_le_div_right (by omega)
    have hstep := Nat.succ_div (a := t.counter.toNat) (b := 2 ^ (tapBit t.tac + 1))
    rw [timerTick_enabled t i h]
    by_cases hz : (t.counter.toNat + 1) % 2 ^ (tapBit t.tac + 1) = 0
    · rw [if_pos (Nat.dvd_of_mod_eq_zero hz)] at hstep
      rw [if_pos hz]
      have ht : ¬ t.tima = 0xFF := by
        intro h'
        have : t.tima.toNat = 255 := by rw [h']; rfl
        omega
      unfold incTima; rw [if_neg (by exact ht)]
      have htima : (t.tima + 1).toNat = t.tima.toNat + 1 := by
        have := t.tima.isLt
        have : t.tima.toNat ≠ 255 := fun h' => ht (BitVec.eq_of_toNat_eq h')
        simp; omega
      have := ih { t with counter := t.counter + 1, tima := t.tima + 1 } i h (by
        simp only [hcn, htima]
        rw [key _ _ hpos hq hc]; omega)
      simp only [hcn, htima] at this
      rw [key _ _ hpos hq hc] at this
      refine ⟨this.1.trans ?_, this.2⟩
      omega
    · rw [if_neg (fun hd => hz (Nat.mod_eq_zero_of_dvd hd))] at hstep
      rw [if_neg hz]
      have := ih { t with counter := t.counter + 1 } i h (by
        simp only [hcn]
        rw [key _ _ hpos hq hc]; omega)
      simp only [hcn] at this
      rw [key _ _ hpos hq hc] at this
      refine ⟨this.1.trans ?_, this.2⟩
      omega

/-- Cycles of a disabled timer. -/
theorem timerRun_disabled (n : Nat) (t : Timer) (i : BitVec 5) (h : t.tac.getLsbD 2 = false) : timerRun n t i = ({ t with counter := t.counter + BitVec.ofNat 16 n }, i) := by
  induction n generalizing t i with
  | zero => simp [timerRun]
  | succ n ih =>
    rw [timerRun]
    have : timerTick t i = ({ t with counter := t.counter + 1 }, i) := by
      unfold timerTick edge
      simp only [Timer.sig, h, Bool.false_and, Bool.false_eq_true, if_false]
    rw [this]
    refine (ih { t with counter := t.counter + 1 } i h).trans ?_
    simp only
    rw [BitVec.add_assoc, show (1 : BitVec 16) + BitVec.ofNat 16 n = BitVec.ofNat 16 (n+1) by rw [Nat.add_comm, BitVec.ofNat_add]; rfl]

end Sys2Proof.Machine
end

