-- ==== Sys2Proof/Tests/Slice0.lean ====
section
/-! SUPPORT. The model's own tests: the check of `WellFormed` and a term it refuses, a word of every encoding, one or two
vectors of `95_test_vectors.md` per instruction and some of the devices', and for every statement with hypotheses a
concrete input that meets them. -/

namespace Sys2Proof.Tests

open Sys2Proof Sys2Proof.Machine

/-! ### Well-formed instructions -/

/-- The prefix byte alone is no complete instruction (`47_system.md` R1315); with its second byte it is. -/
theorem test_wellFormed : Instr.wellFormed .prefixCb = false ∧ Instr.wellFormed (.rlcR .b) = true := by decide

/-! ### Decoding -/

/-- A list that ends before its instruction is refused by name. -/
theorem test_decode_refuses : decode [] = .error .noBytes ∧ decode [0xC3, 0x00] = .error (.truncated 3) ∧
    decode [0xCB] = .ok (.prefixCb, []) := by decide

/-- The encodings of `40_alu8.md`, operand bytes low byte first. -/
theorem test_decode_alu8 :
    decode [0b10000011] = .ok ((.addAR .e), []) ∧
    decode [0b10000110] = .ok (.addAHl, []) ∧
    decode [0b11000110, 0x8E] = .ok ((.addAN 0x8E), []) ∧
    decode [0b10001101] = .ok ((.adcAR .l), []) ∧
    decode [0b10001110] = .ok (.adcAHl, []) ∧
    decode [0b11001110, 0xE5] = .ok ((.adcAN 0xE5), []) ∧
    decode [0b10010000] = .ok ((.subR .b), []) ∧
    decode [0b10010110] = .ok (.subHl, []) ∧
    decode [0b11010110, 0x3C] = .ok ((.subN 0x3C), []) ∧
    decode [0b10011010] = .ok ((.sbcAR .d), []) ∧
    decode [0b10011110] = .ok (.sbcAHl, []) ∧
    decode [0b11011110, 0x93] = .ok ((.sbcAN 0x93), []) ∧
    decode [0b10100100] = .ok ((.andR .h), []) ∧
    decode [0b10100110] = .ok (.andHl, []) ∧
    decode [0b11100110, 0xEA] = .ok ((.andN 0xEA), []) ∧
    decode [0b10101111] = .ok ((.xorR .a), []) ∧
    decode [0b10101110] = .ok (.xorHl, []) ∧
    decode [0b11101110, 0x41] = .ok ((.xorN 0x41), []) ∧
    decode [0b10110001] = .ok ((.orR .c), []) ∧
    decode [0b10110110] = .ok (.orHl, []) ∧
    decode [0b11110110, 0x98] = .ok ((.orN 0x98), []) ∧
    decode [0b10111011] = .ok ((.cpR .e), []) ∧
    decode [0b10111110] = .ok (.cpHl, []) ∧
    decode [0b11111110, 0xEF] = .ok ((.cpN 0xEF), []) ∧
    decode [0b00101100] = .ok ((.incR .l), []) ∧
    decode [0b00110100] = .ok (.incHl, []) ∧
    decode [0b00100101] = .ok ((.decR .h), []) ∧
    decode [0b00110101] = .ok (.decHl, []) ∧
    decode [0b00100111] = .ok (.daa, []) ∧
    decode [0b00101111] = .ok (.cpl, []) ∧
    decode [0b00110111] = .ok (.scf, []) ∧
    decode [0b00111111] = .ok (.ccf, []) := by
  refine ⟨?_, ?_, ?_, ?_, ?_, ?_, ?_, ?_, ?_, ?_, ?_, ?_, ?_, ?_, ?_, ?_, ?_, ?_, ?_, ?_, ?_, ?_, ?_, ?_, ?_, ?_, ?_, ?_, ?_, ?_, ?_, ?_⟩ <;> rfl

/-- The encodings of `41_alu16.md`, operand bytes low byte first. -/
theorem test_decode_alu16 :
    decode [0b00011001] = .ok ((.addHlRr .de), []) ∧
    decode [0b00100011] = .ok ((.incRr .hl), []) ∧
    decode [0b00111011] = .ok ((.decRr .sp), []) ∧
    decode [0b11101000, 0x4B] = .ok ((.addSpE 0x4B), []) ∧
    decode [0b11111000, 0x68] = .ok ((.ldHlSpE 0x68), []) := by
  refine ⟨?_, ?_, ?_, ?_, ?_⟩ <;> rfl

/-- The encodings of `42_rotate_shift.md`, operand bytes low byte first. -/
theorem test_decode_rotate_shift :
    decode [0b00000111] = .ok (.rlca, []) ∧
    decode [0b00001111] = .ok (.rrca, []) ∧
    decode [0b00010111] = .ok (.rla, []) ∧
    decode [0b00011111] = .ok (.rra, []) ∧
    decode [0b11001011, 0b00000000] = .ok ((.rlcR .b), []) ∧
    decode [0b11001011, 0b00000110] = .ok (.rlcHl, []) ∧
    decode [0b11001011, 0b00001111] = .ok ((.rrcR .a), []) ∧
    decode [0b11001011, 0b00001110] = .ok (.rrcHl, []) ∧
    decode [0b11001011, 0b00010101] = .ok ((.rlR .l), []) ∧
    decode [0b11001011, 0b00010110] = .ok (.rlHl, []) ∧
    decode [0b11001011, 0b00011100] = .ok ((.rrR .h), []) ∧
    decode [0b11001011, 0b00011110] = .ok (.rrHl, []) ∧
    decode [0b11001011, 0b00100011] = .ok ((.slaR .e), []) ∧
    decode [0b11001011, 0b00100110] = .ok (.slaHl, []) ∧
    decode [0b11001011, 0b00101010] = .ok ((.sraR .d), []) ∧
    decode [0b11001011, 0b00101110] = .ok (.sraHl, []) ∧
    decode [0b11001011, 0b00110001] = .ok ((.swapR .c), []) ∧
    decode [0b11001011, 0b00110110] = .ok (.swapHl, []) ∧
    decode [0b11001011, 0b00111000] = .ok ((.srlR .b), []) ∧
    decode [0b11001011, 0b00111110] = .ok (.srlHl, []) := by
  refine ⟨?_, ?_, ?_, ?_, ?_, ?_, ?_, ?_, ?_, ?_, ?_, ?_, ?_, ?_, ?_, ?_, ?_, ?_, ?_, ?_⟩ <;> rfl

/-- The encodings of `43_bit.md`, operand bytes low byte first. -/
theorem test_decode_bit :
    decode [0b11001011, 0b01110111] = .ok ((.bitR 6 .a), []) ∧
    decode [0b11001011, 0b01001110] = .ok ((.bitHl 1), []) ∧
    decode [0b11001011, 0b10100101] = .ok ((.resR 4 .l), []) ∧
    decode [0b11001011, 0b10111110] = .ok ((.resHl 7), []) ∧
    decode [0b11001011, 0b11010100] = .ok ((.setR 2 .h), []) ∧
    decode [0b11001011, 0b11101110] = .ok ((.setHl 5), []) := by
  refine ⟨?_, ?_, ?_, ?_, ?_, ?_⟩ <;> rfl

/-- The encodings of `44_load.md`, operand bytes low byte first. -/
theorem test_decode_load :
    decode [0b01011000] = .ok ((.ldRR .e .b), []) ∧
    decode [0b01111110] = .ok ((.ldRHl .a), []) ∧
    decode [0b01110010] = .ok ((.ldHlR .d), []) ∧
    decode [0b00101110, 0xCE] = .ok ((.ldRN .l 0xCE), []) ∧
    decode [0b00110110, 0xEB] = .ok ((.ldHlN 0xEB), []) ∧
    decode [0b00001010] = .ok (.ldABc, []) ∧
    decode [0b00011010] = .ok (.ldADe, []) ∧
    decode [0b00101010] = .ok (.ldAHli, []) ∧
    decode [0b00111010] = .ok (.ldAHld, []) ∧
    decode [0b00000010] = .ok (.ldBcA, []) ∧
    decode [0b00010010] = .ok (.ldDeA, []) ∧
    decode [0b00100010] = .ok (.ldHliA, []) ∧
    decode [0b00110010] = .ok (.ldHldA, []) ∧
    decode [0b11111010, 0xF0, 0x82] = .ok ((.ldAA16 0x82F0), []) ∧
    decode [0b11101010, 0x0D, 0xB7] = .ok ((.ldA16A 0xB70D), []) ∧
    decode [0b11110000, 0x2A] = .ok ((.ldhAA8 0x2A), []) ∧
    decode [0b11100000, 0x47] = .ok ((.ldhA8A 0x47), []) ∧
    decode [0b11110010] = .ok (.ldhAC, []) ∧
    decode [0b11100010] = .ok (.ldhCA, []) ∧
    decode [0b00110001, 0x9E, 0xC0] = .ok ((.ldRrN .sp 0xC09E), []) ∧
    decode [0b00001000, 0xBB, 0xF5] = .ok ((.ldA16Sp 0xF5BB), []) ∧
    decode [0b11111001] = .ok (.ldSpHl, []) := by
  refine ⟨?_, ?_, ?_, ?_, ?_, ?_, ?_, ?_, ?_, ?_, ?_, ?_, ?_, ?_, ?_, ?_, ?_, ?_, ?_, ?_, ?_, ?_⟩ <;> rfl

/-- The encodings of `45_control.md`, operand bytes low byte first. -/
theorem test_decode_control :
    decode [0b11000011, 0xF5, 0x5F] = .ok ((.jp 0x5FF5), []) ∧
    decode [0b11011010, 0x12, 0x94] = .ok ((.jpCc .c 0x9412), []) ∧
    decode [0b11101001] = .ok (.jpHl, []) ∧
    decode [0b00011000, 0x4C] = .ok ((.jr 0x4C), []) ∧
    decode [0b00110000, 0x69] = .ok ((.jrCc .nc 0x69), []) ∧
    decode [0b11001101, 0x86, 0x68] = .ok ((.call 0x6886), []) ∧
    decode [0b11000100, 0xA3, 0x9D] = .ok ((.callCc .nz 0x9DA3), []) ∧
    decode [0b11001001] = .ok (.ret, []) ∧
    decode [0b11010000] = .ok ((.retCc .nc), []) ∧
    decode [0b11011001] = .ok (.reti, []) ∧
    decode [0b11000111] = .ok ((.rst 0), []) := by
  refine ⟨?_, ?_, ?_, ?_, ?_, ?_, ?_, ?_, ?_, ?_, ?_⟩ <;> rfl

/-- The encodings of `46_stack.md`, operand bytes low byte first. -/
theorem test_decode_stack :
    decode [0b11100101] = .ok ((.push .hl), []) ∧
    decode [0b11110001] = .ok ((.pop .af), []) := by
  refine ⟨?_, ?_⟩ <;> rfl

/-- The encodings of `47_system.md`, operand bytes low byte first. -/
theorem test_decode_system :
    decode [0b00000000] = .ok (.nop, []) ∧
    decode [0b00010000, 0x8B] = .ok ((.stop 0x8B), []) ∧
    decode [0b01110110] = .ok (.halt, []) ∧
    decode [0b11110011] = .ok (.di, []) ∧
    decode [0b11111011] = .ok (.ei, []) ∧
    decode [0b11001011] = .ok (.prefixCb, []) ∧
    decode [0b11010011] = .ok (.illegalD3, []) ∧
    decode [0b11011011] = .ok (.illegalDB, []) ∧
    decode [0b11011101] = .ok (.illegalDD, []) ∧
    decode [0b11100011] = .ok (.illegalE3, []) ∧
    decode [0b11100100] = .ok (.illegalE4, []) ∧
    decode [0b11101011] = .ok (.illegalEB, []) ∧
    decode [0b11101100] = .ok (.illegalEC, []) ∧
    decode [0b11101101] = .ok (.illegalED, []) ∧
    decode [0b11110100] = .ok (.illegalF4, []) ∧
    decode [0b11111100] = .ok (.illegalFC, []) ∧
    decode [0b11111101] = .ok (.illegalFD, []) := by
  refine ⟨?_, ?_, ?_, ?_, ?_, ?_, ?_, ?_, ?_, ?_, ?_, ?_, ?_, ?_, ?_, ?_, ?_⟩ <;> rfl

/-- Words of the opcode table, as the table numbers them: the first byte lowest, a secondary row as 0xCB and its second
byte read as one number (log 11). -/
theorem test_decodeTableWord : decodeTableWord 8 0x80 = some (.addAR .b) ∧ decodeTableWord 24 0x1234C3 = some (.jp 0x1234) ∧
    decodeTableWord 16 0xCB37 = some (.swapR .a) ∧ decodeTableWord 16 0x42C6 = some (.addAN 0x42) ∧
    decodeTableWord 8 0xCB = some .prefixCb := by decide

/-! ### Instructions: `95_test_vectors.md` L2.1-L2.8 -/

/-- The start state of the vectors: display off, no interrupt enabled or requested, these registers and this SP, the
bytes at 0xC000 and pc there. -/
def fixture (bytes : List Byte) (r : Regs) (sp : Word) : State :=
  State.pokeBytes
    { State.reset with
      regs := r, sp := sp, pc := 0xC000, ifl := 0
      ppu := { State.reset.ppu with lcdc := 0, mode := .hblank } }
    0xC000 bytes

/-- The registers, SP, pc and cycle count after a step. -/
def afterStep (s : State) : Option (Regs × Word × Word × Nat) :=
  match step s with
  | .next t => some (t.regs, t.sp, t.pc, t.cycles)
  | _ => none

/-- The bytes at these addresses after a step. -/
def bytesAfter (s : State) (l : List Word) : Option (List Byte) :=
  match step s with
  | .next t => l.mapM fun a => match t.peek a with | .byte b => some b | _ => none
  | _ => none

/-- IME, the delay of EI, and the low-power bits after a step. -/
def hiddenAfter (s : State) : Option (Bool × Fin 3 × Bool × Bool × Bool) :=
  match step s with
  | .next t => some (t.ime, t.eiDelay, t.halted, t.haltBug, t.stopped)
  | _ => none

/-- A1: `ADD A,B`, R610. -/
theorem test_a1_addAR :
    afterStep (fixture [0x80] ⟨0x3A, ⟨false, false, false, false⟩, 0xC6, 0x00, 0x00, 0x00, 0xC1, 0x00⟩ 0xFFFE) =
      some (⟨0x00, ⟨true, false, true, true⟩, 0xC6, 0x00, 0x00, 0x00, 0xC1, 0x00⟩, 0xFFFE, 0xC001, 4) := by
  decide

/-- A3: `ADD A,(HL)`, R611. -/
theorem test_a3_addAHl :
    afterStep ((fixture [0x86] ⟨0x3C, ⟨false, false, false, false⟩, 0x00, 0x00, 0x00, 0x00, 0xC1, 0x00⟩ 0xFFFE).poke 0xC100 0x12) =
      some (⟨0x4E, ⟨false, false, false, false⟩, 0x00, 0x00, 0x00, 0x00, 0xC1, 0x00⟩, 0xFFFE, 0xC001, 8) := by
  decide

/-- A4: `ADD A,0xFF`, R612. -/
theorem test_a4_addAN :
    afterStep (fixture [0xC6, 0xFF] ⟨0x3C, ⟨false, false, false, false⟩, 0x00, 0x00, 0x00, 0x00, 0xC1, 0x00⟩ 0xFFFE) =
      some (⟨0x3B, ⟨false, false, true, true⟩, 0x00, 0x00, 0x00, 0x00, 0xC1, 0x00⟩, 0xFFFE, 0xC002, 8) := by
  decide

/-- A5: `ADC A,E`, R613. -/
theorem test_a5_adcAR :
    afterStep (fixture [0x8B] ⟨0xE1, ⟨false, false, false, true⟩, 0x00, 0x00, 0x00, 0x0F, 0xC1, 0x00⟩ 0xFFFE) =
      some (⟨0xF1, ⟨false, false, true, false⟩, 0x00, 0x00, 0x00, 0x0F, 0xC1, 0x00⟩, 0xFFFE, 0xC001, 4) := by
  decide

/-- A6: `ADC A,(HL)`, R614. -/
theorem test_a6_adcAHl :
    afterStep ((fixture [0x8E] ⟨0xE1, ⟨false, false, false, true⟩, 0x00, 0x00, 0x00, 0x00, 0xC1, 0x00⟩ 0xFFFE).poke 0xC100 0x1E) =
      some (⟨0x00, ⟨true, false, true, true⟩, 0x00, 0x00, 0x00, 0x00, 0xC1, 0x00⟩, 0xFFFE, 0xC001, 8) := by
  decide

/-- A7: `ADC A,0xFF`, R615. -/
theorem test_a7_adcAN :
    afterStep (fixture [0xCE, 0xFF] ⟨0x00, ⟨false, false, false, true⟩, 0x00, 0x00, 0x00, 0x00, 0xC1, 0x00⟩ 0xFFFE) =
      some (⟨0x00, ⟨true, false, true, true⟩, 0x00, 0x00, 0x00, 0x00, 0xC1, 0x00⟩, 0xFFFE, 0xC002, 8) := by
  decide

/-- A8: `SUB E`, R616. -/
theorem test_a8_subR :
    afterStep (fixture [0x93] ⟨0x3E, ⟨false, false, false, false⟩, 0x00, 0x00, 0x00, 0x3E, 0xC1, 0x00⟩ 0xFFFE) =
      some (⟨0x00, ⟨true, true, false, false⟩, 0x00, 0x00, 0x00, 0x3E, 0xC1, 0x00⟩, 0xFFFE, 0xC001, 4) := by
  decide

/-- A9: `SUB (HL)`, R617. -/
theorem test_a9_subHl :
    afterStep ((fixture [0x96] ⟨0x3E, ⟨false, false, false, false⟩, 0x00, 0x00, 0x00, 0x00, 0xC1, 0x00⟩ 0xFFFE).poke 0xC100 0x40) =
      some (⟨0xFE, ⟨false, true, false, true⟩, 0x00, 0x00, 0x00, 0x00, 0xC1, 0x00⟩, 0xFFFE, 0xC001, 8) := by
  decide

/-- A10: `SUB 0x0F`, R618. -/
theorem test_a10_subN :
    afterStep (fixture [0xD6, 0x0F] ⟨0x3E, ⟨false, false, false, false⟩, 0x00, 0x00, 0x00, 0x00, 0xC1, 0x00⟩ 0xFFFE) =
      some (⟨0x2F, ⟨false, true, true, false⟩, 0x00, 0x00, 0x00, 0x00, 0xC1, 0x00⟩, 0xFFFE, 0xC002, 8) := by
  decide

/-- A11: `SBC A,H`, R619. -/
theorem test_a11_sbcAR :
    afterStep (fixture [0x9C] ⟨0x3B, ⟨false, false, false, true⟩, 0x00, 0x00, 0x00, 0x00, 0x2A, 0x00⟩ 0xFFFE) =
      some (⟨0x10, ⟨false, true, false, false⟩, 0x00, 0x00, 0x00, 0x00, 0x2A, 0x00⟩, 0xFFFE, 0xC001, 4) := by
  decide

/-- A12: `SBC A,(HL)`, R620. -/
theorem test_a12_sbcAHl :
    afterStep ((fixture [0x9E] ⟨0x3B, ⟨false, false, false, true⟩, 0x00, 0x00, 0x00, 0x00, 0xC1, 0x00⟩ 0xFFFE).poke 0xC100 0x4F) =
      some (⟨0xEB, ⟨false, true, true, true⟩, 0x00, 0x00, 0x00, 0x00, 0xC1, 0x00⟩, 0xFFFE, 0xC001, 8) := by
  decide

/-- A13: `SBC A,0xFF`, R621. -/
theorem test_a13_sbcAN :
    afterStep (fixture [0xDE, 0xFF] ⟨0x00, ⟨false, false, false, true⟩, 0x00, 0x00, 0x00, 0x00, 0xC1, 0x00⟩ 0xFFFE) =
      some (⟨0x00, ⟨true, true, true, true⟩, 0x00, 0x00, 0x00, 0x00, 0xC1, 0x00⟩, 0xFFFE, 0xC002, 8) := by
  decide

/-- A14: `AND L`, R622. -/
theorem test_a14_andR :
    afterStep (fixture [0xA5] ⟨0x5A, ⟨false, false, false, false⟩, 0x00, 0x00, 0x00, 0x00, 0xC1, 0x3F⟩ 0xFFFE) =
      some (⟨0x1A, ⟨false, false, true, false⟩, 0x00, 0x00, 0x00, 0x00, 0xC1, 0x3F⟩, 0xFFFE, 0xC001, 4) := by
  decide

/-- A15: `AND (HL)`, R623. -/
theorem test_a15_andHl :
    afterStep ((fixture [0xA6] ⟨0x5A, ⟨false, false, false, false⟩, 0x00, 0x00, 0x00, 0x00, 0xC1, 0x00⟩ 0xFFFE).poke 0xC100 0x00) =
      some (⟨0x00, ⟨true, false, true, false⟩, 0x00, 0x00, 0x00, 0x00, 0xC1, 0x00⟩, 0xFFFE, 0xC001, 8) := by
  decide

/-- A16: `AND 0x38`, R624. -/
theorem test_a16_andN :
    afterStep (fixture [0xE6, 0x38] ⟨0x5A, ⟨false, false, false, true⟩, 0x00, 0x00, 0x00, 0x00, 0xC1, 0x00⟩ 0xFFFE) =
      some (⟨0x18, ⟨false, false, true, false⟩, 0x00, 0x00, 0x00, 0x00, 0xC1, 0x00⟩, 0xFFFE, 0xC002, 8) := by
  decide

/-- A17: `XOR A`, R625. -/
theorem test_a17_xorR :
    afterStep (fixture [0xAF] ⟨0xFF, ⟨false, true, true, true⟩, 0x00, 0x00, 0x00, 0x00, 0xC1, 0x00⟩ 0xFFFE) =
      some (⟨0x00, ⟨true, false, false, false⟩, 0x00, 0x00, 0x00, 0x00, 0xC1, 0x00⟩, 0xFFFE, 0xC001, 4) := by
  decide

/-- A18: `XOR (HL)`, R626. -/
theorem test_a18_xorHl :
    afterStep ((fixture [0xAE] ⟨0xFF, ⟨false, false, false, false⟩, 0x00, 0x00, 0x00, 0x00, 0xC1, 0x00⟩ 0xFFFE).poke 0xC100 0x8A) =
      some (⟨0x75, ⟨false, false, false, false⟩, 0x00, 0x00, 0x00, 0x00, 0xC1, 0x00⟩, 0xFFFE, 0xC001, 8) := by
  decide

/-- A19: `XOR 0x0F`, R627. -/
theorem test_a19_xorN :
    afterStep (fixture [0xEE, 0x0F] ⟨0xFF, ⟨false, false, false, false⟩, 0x00, 0x00, 0x00, 0x00, 0xC1, 0x00⟩ 0xFFFE) =
      some (⟨0xF0, ⟨false, false, false, false⟩, 0x00, 0x00, 0x00, 0x00, 0xC1, 0x00⟩, 0xFFFE, 0xC002, 8) := by
  decide

/-- A20: `OR A`, R628. -/
theorem test_a20_orR :
    afterStep (fixture [0xB7] ⟨0x00, ⟨false, false, false, true⟩, 0x00, 0x00, 0x00, 0x00, 0xC1, 0x00⟩ 0xFFFE) =
      some (⟨0x00, ⟨true, false, false, false⟩, 0x00, 0x00, 0x00, 0x00, 0xC1, 0x00⟩, 0xFFFE, 0xC001, 4) := by
  decide

/-- A21: `OR (HL)`, R629. -/
theorem test_a21_orHl :
    afterStep ((fixture [0xB6] ⟨0x5A, ⟨false, false, false, false⟩, 0x00, 0x00, 0x00, 0x00, 0xC1, 0x00⟩ 0xFFFE).poke 0xC100 0x0F) =
      some (⟨0x5F, ⟨false, false, false, false⟩, 0x00, 0x00, 0x00, 0x00, 0xC1, 0x00⟩, 0xFFFE, 0xC001, 8) := by
  decide

/-- A22: `OR 0x03`, R630. -/
theorem test_a22_orN :
    afterStep (fixture [0xF6, 0x03] ⟨0x5A, ⟨false, false, false, false⟩, 0x00, 0x00, 0x00, 0x00, 0xC1, 0x00⟩ 0xFFFE) =
      some (⟨0x5B, ⟨false, false, false, false⟩, 0x00, 0x00, 0x00, 0x00, 0xC1, 0x00⟩, 0xFFFE, 0xC002, 8) := by
  decide

/-- A23: `CP B`, R631. -/
theorem test_a23_cpR :
    afterStep (fixture [0xB8] ⟨0x3C, ⟨false, false, false, false⟩, 0x2F, 0x00, 0x00, 0x00, 0xC1, 0x00⟩ 0xFFFE) =
      some (⟨0x3C, ⟨false, true, true, false⟩, 0x2F, 0x00, 0x00, 0x00, 0xC1, 0x00⟩, 0xFFFE, 0xC001, 4) := by
  decide

/-- A24: `CP (HL)`, R632. -/
theorem test_a24_cpHl :
    afterStep ((fixture [0xBE] ⟨0x3C, ⟨false, false, false, false⟩, 0x00, 0x00, 0x00, 0x00, 0xC1, 0x00⟩ 0xFFFE).poke 0xC100 0x40) =
      some (⟨0x3C, ⟨false, true, false, true⟩, 0x00, 0x00, 0x00, 0x00, 0xC1, 0x00⟩, 0xFFFE, 0xC001, 8) := by
  decide

/-- A25: `CP 0x3C`, R633. -/
theorem test_a25_cpN :
    afterStep (fixture [0xFE, 0x3C] ⟨0x3C, ⟨false, false, false, false⟩, 0x00, 0x00, 0x00, 0x00, 0xC1, 0x00⟩ 0xFFFE) =
      some (⟨0x3C, ⟨true, true, false, false⟩, 0x00, 0x00, 0x00, 0x00, 0xC1, 0x00⟩, 0xFFFE, 0xC002, 8) := by
  decide

/-- A26: `INC A`, R640. -/
theorem test_a26_incR :
    afterStep (fixture [0x3C] ⟨0xFF, ⟨false, false, false, true⟩, 0x00, 0x00, 0x00, 0x00, 0xC1, 0x00⟩ 0xFFFE) =
      some (⟨0x00, ⟨true, false, true, true⟩, 0x00, 0x00, 0x00, 0x00, 0xC1, 0x00⟩, 0xFFFE, 0xC001, 4) := by
  decide

/-- A28: `INC (HL)`, R641. -/
theorem test_a28_incHl :
    afterStep ((fixture [0x34] ⟨0x00, ⟨false, false, false, false⟩, 0x00, 0x00, 0x00, 0x00, 0xC1, 0x00⟩ 0xFFFE).poke 0xC100 0x50) =
      some (⟨0x00, ⟨false, false, false, false⟩, 0x00, 0x00, 0x00, 0x00, 0xC1, 0x00⟩, 0xFFFE, 0xC001, 12) ∧
    bytesAfter ((fixture [0x34] ⟨0x00, ⟨false, false, false, false⟩, 0x00, 0x00, 0x00, 0x00, 0xC1, 0x00⟩ 0xFFFE).poke 0xC100 0x50) [0xC100] =
      some [0x51] := by
  decide

/-- A30: `DEC C`, R642. -/
theorem test_a30_decR :
    afterStep (fixture [0x0D] ⟨0x00, ⟨false, false, false, false⟩, 0x00, 0x00, 0x00, 0x00, 0xC1, 0x00⟩ 0xFFFE) =
      some (⟨0x00, ⟨false, true, true, false⟩, 0x00, 0xFF, 0x00, 0x00, 0xC1, 0x00⟩, 0xFFFE, 0xC001, 4) := by
  decide

/-- A31: `DEC (HL)`, R643. -/
theorem test_a31_decHl :
    afterStep ((fixture [0x35] ⟨0x00, ⟨false, false, false, false⟩, 0x00, 0x00, 0x00, 0x00, 0xC1, 0x00⟩ 0xFFFE).poke 0xC100 0x10) =
      some (⟨0x00, ⟨false, true, true, false⟩, 0x00, 0x00, 0x00, 0x00, 0xC1, 0x00⟩, 0xFFFE, 0xC001, 12) ∧
    bytesAfter ((fixture [0x35] ⟨0x00, ⟨false, false, false, false⟩, 0x00, 0x00, 0x00, 0x00, 0xC1, 0x00⟩ 0xFFFE).poke 0xC100 0x10) [0xC100] =
      some [0x0F] := by
  decide

/-- A33: `DAA`, R650. -/
theorem test_a33_daa :
    afterStep (fixture [0x27] ⟨0x9A, ⟨false, false, false, false⟩, 0x00, 0x00, 0x00, 0x00, 0xC1, 0x00⟩ 0xFFFE) =
      some (⟨0x00, ⟨true, false, false, true⟩, 0x00, 0x00, 0x00, 0x00, 0xC1, 0x00⟩, 0xFFFE, 0xC001, 4) := by
  decide

/-- A37: `DAA`, R650. -/
theorem test_a37_daa :
    afterStep (fixture [0x27] ⟨0xA0, ⟨false, true, false, true⟩, 0x00, 0x00, 0x00, 0x00, 0xC1, 0x00⟩ 0xFFFE) =
      some (⟨0x40, ⟨false, true, false, true⟩, 0x00, 0x00, 0x00, 0x00, 0xC1, 0x00⟩, 0xFFFE, 0xC001, 4) := by
  decide

/-- A38: `CPL`, R651. -/
theorem test_a38_cpl :
    afterStep (fixture [0x2F] ⟨0x35, ⟨true, false, false, true⟩, 0x00, 0x00, 0x00, 0x00, 0xC1, 0x00⟩ 0xFFFE) =
      some (⟨0xCA, ⟨true, true, true, true⟩, 0x00, 0x00, 0x00, 0x00, 0xC1, 0x00⟩, 0xFFFE, 0xC001, 4) := by
  decide

/-- A39: `SCF`, R652. -/
theorem test_a39_scf :
    afterStep (fixture [0x37] ⟨0x00, ⟨true, true, true, false⟩, 0x00, 0x00, 0x00, 0x00, 0xC1, 0x00⟩ 0xFFFE) =
      some (⟨0x00, ⟨true, false, false, true⟩, 0x00, 0x00, 0x00, 0x00, 0xC1, 0x00⟩, 0xFFFE, 0xC001, 4) := by
  decide

/-- A40: `CCF`, R653. -/
theorem test_a40_ccf :
    afterStep (fixture [0x3F] ⟨0x00, ⟨false, true, true, true⟩, 0x00, 0x00, 0x00, 0x00, 0xC1, 0x00⟩ 0xFFFE) =
      some (⟨0x00, ⟨false, false, false, false⟩, 0x00, 0x00, 0x00, 0x00, 0xC1, 0x00⟩, 0xFFFE, 0xC001, 4) := by
  decide

/-- B2: `ADD HL,HL`, R710. -/
theorem test_b2_addHlRr :
    afterStep (fixture [0x29] ⟨0x00, ⟨false, false, false, false⟩, 0x00, 0x00, 0x00, 0x00, 0x8A, 0x23⟩ 0xFFFE) =
      some (⟨0x00, ⟨false, false, true, true⟩, 0x00, 0x00, 0x00, 0x00, 0x14, 0x46⟩, 0xFFFE, 0xC001, 8) := by
  decide

/-- B4: `INC DE`, R711. -/
theorem test_b4_incRr :
    afterStep (fixture [0x13] ⟨0x00, ⟨true, false, false, true⟩, 0x00, 0x00, 0xFF, 0xFF, 0xC1, 0x00⟩ 0xFFFE) =
      some (⟨0x00, ⟨true, false, false, true⟩, 0x00, 0x00, 0x00, 0x00, 0xC1, 0x00⟩, 0xFFFE, 0xC001, 8) := by
  decide

/-- B5: `INC SP`, R711. -/
theorem test_b5_incRr :
    afterStep (fixture [0x33] ⟨0x00, ⟨false, false, false, false⟩, 0x00, 0x00, 0x00, 0x00, 0xC1, 0x00⟩ 0xFFFF) =
      some (⟨0x00, ⟨false, false, false, false⟩, 0x00, 0x00, 0x00, 0x00, 0xC1, 0x00⟩, 0x0000, 0xC001, 8) := by
  decide

/-- B6: `DEC BC`, R712. -/
theorem test_b6_decRr :
    afterStep (fixture [0x0B] ⟨0x00, ⟨false, false, false, false⟩, 0x00, 0x00, 0x00, 0x00, 0xC1, 0x00⟩ 0xFFFE) =
      some (⟨0x00, ⟨false, false, false, false⟩, 0xFF, 0xFF, 0x00, 0x00, 0xC1, 0x00⟩, 0xFFFE, 0xC001, 8) := by
  decide

/-- B9: `ADD SP,-1`, R713. -/
theorem test_b9_addSpE :
    afterStep (fixture [0xE8, 0xFF] ⟨0x00, ⟨false, false, false, false⟩, 0x00, 0x00, 0x00, 0x00, 0xC1, 0x00⟩ 0x00FF) =
      some (⟨0x00, ⟨false, false, true, true⟩, 0x00, 0x00, 0x00, 0x00, 0xC1, 0x00⟩, 0x00FE, 0xC002, 16) := by
  decide

/-- B12: `LD HL,SP-1`, R714. -/
theorem test_b12_ldHlSpE :
    afterStep (fixture [0xF8, 0xFF] ⟨0x00, ⟨false, false, false, false⟩, 0x00, 0x00, 0x00, 0x00, 0xC1, 0x00⟩ 0x0001) =
      some (⟨0x00, ⟨false, false, true, true⟩, 0x00, 0x00, 0x00, 0x00, 0x00, 0x00⟩, 0x0001, 0xC002, 12) := by
  decide

/-- C1: `RLCA`, R810. -/
theorem test_c1_rlca :
    afterStep (fixture [0x07] ⟨0x85, ⟨true, false, false, false⟩, 0x00, 0x00, 0x00, 0x00, 0xC1, 0x00⟩ 0xFFFE) =
      some (⟨0x0B, ⟨false, false, false, true⟩, 0x00, 0x00, 0x00, 0x00, 0xC1, 0x00⟩, 0xFFFE, 0xC001, 4) := by
  decide

/-- C2: `RLCA`, R810. -/
theorem test_c2_rlca :
    afterStep (fixture [0x07] ⟨0x00, ⟨false, false, false, false⟩, 0x00, 0x00, 0x00, 0x00, 0xC1, 0x00⟩ 0xFFFE) =
      some (⟨0x00, ⟨false, false, false, false⟩, 0x00, 0x00, 0x00, 0x00, 0xC1, 0x00⟩, 0xFFFE, 0xC001, 4) := by
  decide

/-- C3: `RRCA`, R811. -/
theorem test_c3_rrca :
    afterStep (fixture [0x0F] ⟨0x01, ⟨false, false, false, false⟩, 0x00, 0x00, 0x00, 0x00, 0xC1, 0x00⟩ 0xFFFE) =
      some (⟨0x80, ⟨false, false, false, true⟩, 0x00, 0x00, 0x00, 0x00, 0xC1, 0x00⟩, 0xFFFE, 0xC001, 4) := by
  decide

/-- C5: `RLA`, R812. -/
theorem test_c5_rla :
    afterStep (fixture [0x17] ⟨0x80, ⟨false, false, false, false⟩, 0x00, 0x00, 0x00, 0x00, 0xC1, 0x00⟩ 0xFFFE) =
      some (⟨0x00, ⟨false, false, false, true⟩, 0x00, 0x00, 0x00, 0x00, 0xC1, 0x00⟩, 0xFFFE, 0xC001, 4) := by
  decide

/-- C6: `RRA`, R813. -/
theorem test_c6_rra :
    afterStep (fixture [0x1F] ⟨0x81, ⟨false, false, false, false⟩, 0x00, 0x00, 0x00, 0x00, 0xC1, 0x00⟩ 0xFFFE) =
      some (⟨0x40, ⟨false, false, false, true⟩, 0x00, 0x00, 0x00, 0x00, 0xC1, 0x00⟩, 0xFFFE, 0xC001, 4) := by
  decide

/-- C7: `RLC B`, R820. -/
theorem test_c7_rlcR :
    afterStep (fixture [0xCB, 0x00] ⟨0x00, ⟨false, false, false, false⟩, 0x85, 0x00, 0x00, 0x00, 0xC1, 0x00⟩ 0xFFFE) =
      some (⟨0x00, ⟨false, false, false, true⟩, 0x0B, 0x00, 0x00, 0x00, 0xC1, 0x00⟩, 0xFFFE, 0xC002, 8) := by
  decide

/-- C8: `RLC (HL)`, R821. -/
theorem test_c8_rlcHl :
    afterStep ((fixture [0xCB, 0x06] ⟨0x00, ⟨false, false, false, false⟩, 0x00, 0x00, 0x00, 0x00, 0xC1, 0x00⟩ 0xFFFE).poke 0xC100 0x00) =
      some (⟨0x00, ⟨true, false, false, false⟩, 0x00, 0x00, 0x00, 0x00, 0xC1, 0x00⟩, 0xFFFE, 0xC002, 16) ∧
    bytesAfter ((fixture [0xCB, 0x06] ⟨0x00, ⟨false, false, false, false⟩, 0x00, 0x00, 0x00, 0x00, 0xC1, 0x00⟩ 0xFFFE).poke 0xC100 0x00) [0xC100] =
      some [0x00] := by
  decide

/-- C9: `RRC C`, R822. -/
theorem test_c9_rrcR :
    afterStep (fixture [0xCB, 0x09] ⟨0x00, ⟨false, false, false, false⟩, 0x00, 0x01, 0x00, 0x00, 0xC1, 0x00⟩ 0xFFFE) =
      some (⟨0x00, ⟨false, false, false, true⟩, 0x00, 0x80, 0x00, 0x00, 0xC1, 0x00⟩, 0xFFFE, 0xC002, 8) := by
  decide

/-- C10: `RRC (HL)`, R823. -/
theorem test_c10_rrcHl :
    afterStep ((fixture [0xCB, 0x0E] ⟨0x00, ⟨false, false, false, false⟩, 0x00, 0x00, 0x00, 0x00, 0xC1, 0x00⟩ 0xFFFE).poke 0xC100 0x02) =
      some (⟨0x00, ⟨false, false, false, false⟩, 0x00, 0x00, 0x00, 0x00, 0xC1, 0x00⟩, 0xFFFE, 0xC002, 16) ∧
    bytesAfter ((fixture [0xCB, 0x0E] ⟨0x00, ⟨false, false, false, false⟩, 0x00, 0x00, 0x00, 0x00, 0xC1, 0x00⟩ 0xFFFE).poke 0xC100 0x02) [0xC100] =
      some [0x01] := by
  decide

/-- C11: `RL L`, R824. -/
theorem test_c11_rlR :
    afterStep (fixture [0xCB, 0x15] ⟨0x00, ⟨false, false, false, false⟩, 0x00, 0x00, 0x00, 0x00, 0xC1, 0x80⟩ 0xFFFE) =
      some (⟨0x00, ⟨true, false, false, true⟩, 0x00, 0x00, 0x00, 0x00, 0xC1, 0x00⟩, 0xFFFE, 0xC002, 8) := by
  decide

/-- C12: `RL (HL)`, R825. -/
theorem test_c12_rlHl :
    afterStep ((fixture [0xCB, 0x16] ⟨0x00, ⟨false, false, false, true⟩, 0x00, 0x00, 0x00, 0x00, 0xC1, 0x00⟩ 0xFFFE).poke 0xC100 0x11) =
      some (⟨0x00, ⟨false, false, false, false⟩, 0x00, 0x00, 0x00, 0x00, 0xC1, 0x00⟩, 0xFFFE, 0xC002, 16) ∧
    bytesAfter ((fixture [0xCB, 0x16] ⟨0x00, ⟨false, false, false, true⟩, 0x00, 0x00, 0x00, 0x00, 0xC1, 0x00⟩ 0xFFFE).poke 0xC100 0x11) [0xC100] =
      some [0x23] := by
  decide

/-- C13: `RR A`, R826. -/
theorem test_c13_rrR :
    afterStep (fixture [0xCB, 0x1F] ⟨0x01, ⟨false, false, false, false⟩, 0x00, 0x00, 0x00, 0x00, 0xC1, 0x00⟩ 0xFFFE) =
      some (⟨0x00, ⟨true, false, false, true⟩, 0x00, 0x00, 0x00, 0x00, 0xC1, 0x00⟩, 0xFFFE, 0xC002, 8) := by
  decide

/-- C14: `RR (HL)`, R827. -/
theorem test_c14_rrHl :
    afterStep ((fixture [0xCB, 0x1E] ⟨0x00, ⟨false, false, false, true⟩, 0x00, 0x00, 0x00, 0x00, 0xC1, 0x00⟩ 0xFFFE).poke 0xC100 0x8A) =
      some (⟨0x00, ⟨false, false, false, false⟩, 0x00, 0x00, 0x00, 0x00, 0xC1, 0x00⟩, 0xFFFE, 0xC002, 16) ∧
    bytesAfter ((fixture [0xCB, 0x1E] ⟨0x00, ⟨false, false, false, true⟩, 0x00, 0x00, 0x00, 0x00, 0xC1, 0x00⟩ 0xFFFE).poke 0xC100 0x8A) [0xC100] =
      some [0xC5] := by
  decide

/-- C15: `SLA D`, R828. -/
theorem test_c15_slaR :
    afterStep (fixture [0xCB, 0x22] ⟨0x00, ⟨false, false, false, false⟩, 0x00, 0x00, 0x80, 0x00, 0xC1, 0x00⟩ 0xFFFE) =
      some (⟨0x00, ⟨true, false, false, true⟩, 0x00, 0x00, 0x00, 0x00, 0xC1, 0x00⟩, 0xFFFE, 0xC002, 8) := by
  decide

/-- C16: `SLA (HL)`, R829. -/
theorem test_c16_slaHl :
    afterStep ((fixture [0xCB, 0x26] ⟨0x00, ⟨false, false, false, false⟩, 0x00, 0x00, 0x00, 0x00, 0xC1, 0x00⟩ 0xFFFE).poke 0xC100 0xFF) =
      some (⟨0x00, ⟨false, false, false, true⟩, 0x00, 0x00, 0x00, 0x00, 0xC1, 0x00⟩, 0xFFFE, 0xC002, 16) ∧
    bytesAfter ((fixture [0xCB, 0x26] ⟨0x00, ⟨false, false, false, false⟩, 0x00, 0x00, 0x00, 0x00, 0xC1, 0x00⟩ 0xFFFE).poke 0xC100 0xFF) [0xC100] =
      some [0xFE] := by
  decide

/-- C17: `SRA A`, R830. -/
theorem test_c17_sraR :
    afterStep (fixture [0xCB, 0x2F] ⟨0x8A, ⟨false, false, false, false⟩, 0x00, 0x00, 0x00, 0x00, 0xC1, 0x00⟩ 0xFFFE) =
      some (⟨0xC5, ⟨false, false, false, false⟩, 0x00, 0x00, 0x00, 0x00, 0xC1, 0x00⟩, 0xFFFE, 0xC002, 8) := by
  decide

/-- C18: `SRA (HL)`, R831. -/
theorem test_c18_sraHl :
    afterStep ((fixture [0xCB, 0x2E] ⟨0x00, ⟨false, false, false, false⟩, 0x00, 0x00, 0x00, 0x00, 0xC1, 0x00⟩ 0xFFFE).poke 0xC100 0x01) =
      some (⟨0x00, ⟨true, false, false, true⟩, 0x00, 0x00, 0x00, 0x00, 0xC1, 0x00⟩, 0xFFFE, 0xC002, 16) ∧
    bytesAfter ((fixture [0xCB, 0x2E] ⟨0x00, ⟨false, false, false, false⟩, 0x00, 0x00, 0x00, 0x00, 0xC1, 0x00⟩ 0xFFFE).poke 0xC100 0x01) [0xC100] =
      some [0x00] := by
  decide

/-- C19: `SWAP A`, R832. -/
theorem test_c19_swapR :
    afterStep (fixture [0xCB, 0x37] ⟨0x00, ⟨false, false, false, true⟩, 0x00, 0x00, 0x00, 0x00, 0xC1, 0x00⟩ 0xFFFE) =
      some (⟨0x00, ⟨true, false, false, false⟩, 0x00, 0x00, 0x00, 0x00, 0xC1, 0x00⟩, 0xFFFE, 0xC002, 8) := by
  decide

/-- C20: `SWAP (HL)`, R833. -/
theorem test_c20_swapHl :
    afterStep ((fixture [0xCB, 0x36] ⟨0x00, ⟨false, false, false, false⟩, 0x00, 0x00, 0x00, 0x00, 0xC1, 0x00⟩ 0xFFFE).poke 0xC100 0xF0) =
      some (⟨0x00, ⟨false, false, false, false⟩, 0x00, 0x00, 0x00, 0x00, 0xC1, 0x00⟩, 0xFFFE, 0xC002, 16) ∧
    bytesAfter ((fixture [0xCB, 0x36] ⟨0x00, ⟨false, false, false, false⟩, 0x00, 0x00, 0x00, 0x00, 0xC1, 0x00⟩ 0xFFFE).poke 0xC100 0xF0) [0xC100] =
      some [0x0F] := by
  decide

/-- C21: `SRL A`, R834. -/
theorem test_c21_srlR :
    afterStep (fixture [0xCB, 0x3F] ⟨0x01, ⟨false, false, false, false⟩, 0x00, 0x00, 0x00, 0x00, 0xC1, 0x00⟩ 0xFFFE) =
      some (⟨0x00, ⟨true, false, false, true⟩, 0x00, 0x00, 0x00, 0x00, 0xC1, 0x00⟩, 0xFFFE, 0xC002, 8) := by
  decide

/-- C22: `SRL (HL)`, R835. -/
theorem test_c22_srlHl :
    afterStep ((fixture [0xCB, 0x3E] ⟨0x00, ⟨false, false, false, false⟩, 0x00, 0x00, 0x00, 0x00, 0xC1, 0x00⟩ 0xFFFE).poke 0xC100 0xFF) =
      some (⟨0x00, ⟨false, false, false, true⟩, 0x00, 0x00, 0x00, 0x00, 0xC1, 0x00⟩, 0xFFFE, 0xC002, 16) ∧
    bytesAfter ((fixture [0xCB, 0x3E] ⟨0x00, ⟨false, false, false, false⟩, 0x00, 0x00, 0x00, 0x00, 0xC1, 0x00⟩ 0xFFFE).poke 0xC100 0xFF) [0xC100] =
      some [0x7F] := by
  decide

/-- D1: `BIT 7,H`, R910. -/
theorem test_d1_bitR :
    afterStep (fixture [0xCB, 0x7C] ⟨0x00, ⟨false, true, false, true⟩, 0x00, 0x00, 0x00, 0x00, 0x80, 0x00⟩ 0xFFFE) =
      some (⟨0x00, ⟨false, false, true, true⟩, 0x00, 0x00, 0x00, 0x00, 0x80, 0x00⟩, 0xFFFE, 0xC002, 8) := by
  decide

/-- D2: `BIT 4,L`, R910. -/
theorem test_d2_bitR :
    afterStep (fixture [0xCB, 0x65] ⟨0x00, ⟨false, false, false, false⟩, 0x00, 0x00, 0x00, 0x00, 0xC1, 0xEF⟩ 0xFFFE) =
      some (⟨0x00, ⟨true, false, true, false⟩, 0x00, 0x00, 0x00, 0x00, 0xC1, 0xEF⟩, 0xFFFE, 0xC002, 8) := by
  decide

/-- D3: `BIT 0,(HL)`, R911. -/
theorem test_d3_bitHl :
    afterStep ((fixture [0xCB, 0x46] ⟨0x00, ⟨false, true, false, false⟩, 0x00, 0x00, 0x00, 0x00, 0xC1, 0x00⟩ 0xFFFE).poke 0xC100 0xFE) =
      some (⟨0x00, ⟨true, false, true, false⟩, 0x00, 0x00, 0x00, 0x00, 0xC1, 0x00⟩, 0xFFFE, 0xC002, 12) ∧
    bytesAfter ((fixture [0xCB, 0x46] ⟨0x00, ⟨false, true, false, false⟩, 0x00, 0x00, 0x00, 0x00, 0xC1, 0x00⟩ 0xFFFE).poke 0xC100 0xFE) [0xC100] =
      some [0xFE] := by
  decide

/-- D4: `RES 7,A`, R912. -/
theorem test_d4_resR :
    afterStep (fixture [0xCB, 0xBF] ⟨0x80, ⟨true, true, true, true⟩, 0x00, 0x00, 0x00, 0x00, 0xC1, 0x00⟩ 0xFFFE) =
      some (⟨0x00, ⟨true, true, true, true⟩, 0x00, 0x00, 0x00, 0x00, 0xC1, 0x00⟩, 0xFFFE, 0xC002, 8) := by
  decide

/-- D5: `RES 1,(HL)`, R913. -/
theorem test_d5_resHl :
    afterStep ((fixture [0xCB, 0x8E] ⟨0x00, ⟨false, false, false, false⟩, 0x00, 0x00, 0x00, 0x00, 0xC1, 0x00⟩ 0xFFFE).poke 0xC100 0xFF) =
      some (⟨0x00, ⟨false, false, false, false⟩, 0x00, 0x00, 0x00, 0x00, 0xC1, 0x00⟩, 0xFFFE, 0xC002, 16) ∧
    bytesAfter ((fixture [0xCB, 0x8E] ⟨0x00, ⟨false, false, false, false⟩, 0x00, 0x00, 0x00, 0x00, 0xC1, 0x00⟩ 0xFFFE).poke 0xC100 0xFF) [0xC100] =
      some [0xFD] := by
  decide

/-- D6: `SET 3,A`, R914. -/
theorem test_d6_setR :
    afterStep (fixture [0xCB, 0xDF] ⟨0x80, ⟨false, false, false, false⟩, 0x00, 0x00, 0x00, 0x00, 0xC1, 0x00⟩ 0xFFFE) =
      some (⟨0x88, ⟨false, false, false, false⟩, 0x00, 0x00, 0x00, 0x00, 0xC1, 0x00⟩, 0xFFFE, 0xC002, 8) := by
  decide

/-- D7: `SET 0,(HL)`, R915. -/
theorem test_d7_setHl :
    afterStep ((fixture [0xCB, 0xC6] ⟨0x00, ⟨false, false, false, false⟩, 0x00, 0x00, 0x00, 0x00, 0xC1, 0x00⟩ 0xFFFE).poke 0xC100 0x00) =
      some (⟨0x00, ⟨false, false, false, false⟩, 0x00, 0x00, 0x00, 0x00, 0xC1, 0x00⟩, 0xFFFE, 0xC002, 16) ∧
    bytesAfter ((fixture [0xCB, 0xC6] ⟨0x00, ⟨false, false, false, false⟩, 0x00, 0x00, 0x00, 0x00, 0xC1, 0x00⟩ 0xFFFE).poke 0xC100 0x00) [0xC100] =
      some [0x01] := by
  decide

/-- E1: `LD B,A`, R1010. -/
theorem test_e1_ldRR :
    afterStep (fixture [0x47] ⟨0x3C, ⟨false, false, false, false⟩, 0x00, 0x00, 0x00, 0x00, 0xC1, 0x00⟩ 0xFFFE) =
      some (⟨0x3C, ⟨false, false, false, false⟩, 0x3C, 0x00, 0x00, 0x00, 0xC1, 0x00⟩, 0xFFFE, 0xC001, 4) := by
  decide

/-- E4: `LD H,(HL)`, R1011. -/
theorem test_e4_ldRHl :
    afterStep ((fixture [0x66] ⟨0x00, ⟨false, false, false, false⟩, 0x00, 0x00, 0x00, 0x00, 0xC1, 0x00⟩ 0xFFFE).poke 0xC100 0xD0) =
      some (⟨0x00, ⟨false, false, false, false⟩, 0x00, 0x00, 0x00, 0x00, 0xD0, 0x00⟩, 0xFFFE, 0xC001, 8) := by
  decide

/-- E5: `LD (HL),L`, R1012. -/
theorem test_e5_ldHlR :
    afterStep (fixture [0x75] ⟨0x00, ⟨false, false, false, false⟩, 0x00, 0x00, 0x00, 0x00, 0xC1, 0x00⟩ 0xFFFE) =
      some (⟨0x00, ⟨false, false, false, false⟩, 0x00, 0x00, 0x00, 0x00, 0xC1, 0x00⟩, 0xFFFE, 0xC001, 8) ∧
    bytesAfter (fixture [0x75] ⟨0x00, ⟨false, false, false, false⟩, 0x00, 0x00, 0x00, 0x00, 0xC1, 0x00⟩ 0xFFFE) [0xC100] =
      some [0x00] := by
  decide

/-- E6: `LD C,0x24`, R1013. -/
theorem test_e6_ldRN :
    afterStep (fixture [0x0E, 0x24] ⟨0x00, ⟨false, false, false, false⟩, 0x00, 0x00, 0x00, 0x00, 0xC1, 0x00⟩ 0xFFFE) =
      some (⟨0x00, ⟨false, false, false, false⟩, 0x00, 0x24, 0x00, 0x00, 0xC1, 0x00⟩, 0xFFFE, 0xC002, 8) := by
  decide

/-- E7: `LD (HL),0x5A`, R1014. -/
theorem test_e7_ldHlN :
    afterStep (fixture [0x36, 0x5A] ⟨0x00, ⟨false, false, false, false⟩, 0x00, 0x00, 0x00, 0x00, 0xC1, 0x00⟩ 0xFFFE) =
      some (⟨0x00, ⟨false, false, false, false⟩, 0x00, 0x00, 0x00, 0x00, 0xC1, 0x00⟩, 0xFFFE, 0xC002, 12) ∧
    bytesAfter (fixture [0x36, 0x5A] ⟨0x00, ⟨false, false, false, false⟩, 0x00, 0x00, 0x00, 0x00, 0xC1, 0x00⟩ 0xFFFE) [0xC100] =
      some [0x5A] := by
  decide

/-- E8: `LD A,(BC)`, R1020. -/
theorem test_e8_ldABc :
    afterStep ((fixture [0x0A] ⟨0x00, ⟨false, false, false, false⟩, 0xC2, 0x00, 0x00, 0x00, 0xC1, 0x00⟩ 0xFFFE).poke 0xC200 0x2F) =
      some (⟨0x2F, ⟨false, false, false, false⟩, 0xC2, 0x00, 0x00, 0x00, 0xC1, 0x00⟩, 0xFFFE, 0xC001, 8) := by
  decide

/-- E9: `LD A,(DE)`, R1021. -/
theorem test_e9_ldADe :
    afterStep ((fixture [0x1A] ⟨0x00, ⟨false, false, false, false⟩, 0x00, 0x00, 0xC2, 0x01, 0xC1, 0x00⟩ 0xFFFE).poke 0xC201 0x5F) =
      some (⟨0x5F, ⟨false, false, false, false⟩, 0x00, 0x00, 0xC2, 0x01, 0xC1, 0x00⟩, 0xFFFE, 0xC001, 8) := by
  decide

/-- E10: `LD A,(HL+)`, R1022. -/
theorem test_e10_ldAHli :
    afterStep ((fixture [0x2A] ⟨0x00, ⟨false, false, false, false⟩, 0x00, 0x00, 0x00, 0x00, 0xC1, 0xFF⟩ 0xFFFE).poke 0xC1FF 0x56) =
      some (⟨0x56, ⟨false, false, false, false⟩, 0x00, 0x00, 0x00, 0x00, 0xC2, 0x00⟩, 0xFFFE, 0xC001, 8) := by
  decide

/-- E11: `LD A,(HL-)`, R1023. -/
theorem test_e11_ldAHld :
    afterStep ((fixture [0x3A] ⟨0x00, ⟨false, false, false, false⟩, 0x00, 0x00, 0x00, 0x00, 0xC2, 0x00⟩ 0xFFFE).poke 0xC200 0x01) =
      some (⟨0x01, ⟨false, false, false, false⟩, 0x00, 0x00, 0x00, 0x00, 0xC1, 0xFF⟩, 0xFFFE, 0xC001, 8) := by
  decide

/-- E12: `LD (BC),A`, R1024. -/
theorem test_e12_ldBcA :
    afterStep (fixture [0x02] ⟨0x3F, ⟨false, false, false, false⟩, 0xC2, 0x05, 0x00, 0x00, 0xC1, 0x00⟩ 0xFFFE) =
      some (⟨0x3F, ⟨false, false, false, false⟩, 0xC2, 0x05, 0x00, 0x00, 0xC1, 0x00⟩, 0xFFFE, 0xC001, 8) ∧
    bytesAfter (fixture [0x02] ⟨0x3F, ⟨false, false, false, false⟩, 0xC2, 0x05, 0x00, 0x00, 0xC1, 0x00⟩ 0xFFFE) [0xC205] =
      some [0x3F] := by
  decide

/-- E13: `LD (DE),A`, R1025. -/
theorem test_e13_ldDeA :
    afterStep (fixture [0x12] ⟨0x3F, ⟨false, false, false, false⟩, 0x00, 0x00, 0xC2, 0x06, 0xC1, 0x00⟩ 0xFFFE) =
      some (⟨0x3F, ⟨false, false, false, false⟩, 0x00, 0x00, 0xC2, 0x06, 0xC1, 0x00⟩, 0xFFFE, 0xC001, 8) ∧
    bytesAfter (fixture [0x12] ⟨0x3F, ⟨false, false, false, false⟩, 0x00, 0x00, 0xC2, 0x06, 0xC1, 0x00⟩ 0xFFFE) [0xC206] =
      some [0x3F] := by
  decide

/-- E14: `LD (HL+),A`, R1026. -/
theorem test_e14_ldHliA :
    afterStep (fixture [0x22] ⟨0x56, ⟨false, false, false, false⟩, 0x00, 0x00, 0x00, 0x00, 0xC2, 0xFF⟩ 0xFFFE) =
      some (⟨0x56, ⟨false, false, false, false⟩, 0x00, 0x00, 0x00, 0x00, 0xC3, 0x00⟩, 0xFFFE, 0xC001, 8) ∧
    bytesAfter (fixture [0x22] ⟨0x56, ⟨false, false, false, false⟩, 0x00, 0x00, 0x00, 0x00, 0xC2, 0xFF⟩ 0xFFFE) [0xC2FF] =
      some [0x56] := by
  decide

/-- E15: `LD (HL-),A`, R1027. -/
theorem test_e15_ldHldA :
    afterStep (fixture [0x32] ⟨0x05, ⟨false, false, false, false⟩, 0x00, 0x00, 0x00, 0x00, 0xC3, 0x00⟩ 0xFFFE) =
      some (⟨0x05, ⟨false, false, false, false⟩, 0x00, 0x00, 0x00, 0x00, 0xC2, 0xFF⟩, 0xFFFE, 0xC001, 8) ∧
    bytesAfter (fixture [0x32] ⟨0x05, ⟨false, false, false, false⟩, 0x00, 0x00, 0x00, 0x00, 0xC3, 0x00⟩ 0xFFFE) [0xC300] =
      some [0x05] := by
  decide

/-- E16: `LD A,(0xC123)`, R1030. -/
theorem test_e16_ldAA16 :
    afterStep ((fixture [0xFA, 0x23, 0xC1] ⟨0x00, ⟨false, false, false, false⟩, 0x00, 0x00, 0x00, 0x00, 0xC1, 0x00⟩ 0xFFFE).poke 0xC123 0x99) =
      some (⟨0x99, ⟨false, false, false, false⟩, 0x00, 0x00, 0x00, 0x00, 0xC1, 0x00⟩, 0xFFFE, 0xC003, 16) := by
  decide

/-- E17: `LD (0xC123),A`, R1031. -/
theorem test_e17_ldA16A :
    afterStep (fixture [0xEA, 0x23, 0xC1] ⟨0x42, ⟨false, false, false, false⟩, 0x00, 0x00, 0x00, 0x00, 0xC1, 0x00⟩ 0xFFFE) =
      some (⟨0x42, ⟨false, false, false, false⟩, 0x00, 0x00, 0x00, 0x00, 0xC1, 0x00⟩, 0xFFFE, 0xC003, 16) ∧
    bytesAfter (fixture [0xEA, 0x23, 0xC1] ⟨0x42, ⟨false, false, false, false⟩, 0x00, 0x00, 0x00, 0x00, 0xC1, 0x00⟩ 0xFFFE) [0xC123] =
      some [0x42] := by
  decide

/-- E18: `LDH A,(0x80)`, R1032. -/
theorem test_e18_ldhAA8 :
    afterStep ((fixture [0xF0, 0x80] ⟨0x00, ⟨false, false, false, false⟩, 0x00, 0x00, 0x00, 0x00, 0xC1, 0x00⟩ 0xFFFE).poke 0xFF80 0x12) =
      some (⟨0x12, ⟨false, false, false, false⟩, 0x00, 0x00, 0x00, 0x00, 0xC1, 0x00⟩, 0xFFFE, 0xC002, 12) := by
  decide

/-- E19: `LDH (0x81),A`, R1033. -/
theorem test_e19_ldhA8A :
    afterStep (fixture [0xE0, 0x81] ⟨0x34, ⟨false, false, false, false⟩, 0x00, 0x00, 0x00, 0x00, 0xC1, 0x00⟩ 0xFFFE) =
      some (⟨0x34, ⟨false, false, false, false⟩, 0x00, 0x00, 0x00, 0x00, 0xC1, 0x00⟩, 0xFFFE, 0xC002, 12) ∧
    bytesAfter (fixture [0xE0, 0x81] ⟨0x34, ⟨false, false, false, false⟩, 0x00, 0x00, 0x00, 0x00, 0xC1, 0x00⟩ 0xFFFE) [0xFF81] =
      some [0x34] := by
  decide

/-- E20: `LDH A,(C)`, R1034. -/
theorem test_e20_ldhAC :
    afterStep ((fixture [0xF2] ⟨0x00, ⟨false, false, false, false⟩, 0x00, 0x82, 0x00, 0x00, 0xC1, 0x00⟩ 0xFFFE).poke 0xFF82 0x56) =
      some (⟨0x56, ⟨false, false, false, false⟩, 0x00, 0x82, 0x00, 0x00, 0xC1, 0x00⟩, 0xFFFE, 0xC001, 8) := by
  decide

/-- E21: `LDH (C),A`, R1035. -/
theorem test_e21_ldhCA :
    afterStep (fixture [0xE2] ⟨0x78, ⟨false, false, false, false⟩, 0x00, 0x83, 0x00, 0x00, 0xC1, 0x00⟩ 0xFFFE) =
      some (⟨0x78, ⟨false, false, false, false⟩, 0x00, 0x83, 0x00, 0x00, 0xC1, 0x00⟩, 0xFFFE, 0xC001, 8) ∧
    bytesAfter (fixture [0xE2] ⟨0x78, ⟨false, false, false, false⟩, 0x00, 0x83, 0x00, 0x00, 0xC1, 0x00⟩ 0xFFFE) [0xFF83] =
      some [0x78] := by
  decide

/-- E22: `LD SP,0xFFFE`, R1040. -/
theorem test_e22_ldRrN :
    afterStep (fixture [0x31, 0xFE, 0xFF] ⟨0x00, ⟨false, false, false, false⟩, 0x00, 0x00, 0x00, 0x00, 0xC1, 0x00⟩ 0x0000) =
      some (⟨0x00, ⟨false, false, false, false⟩, 0x00, 0x00, 0x00, 0x00, 0xC1, 0x00⟩, 0xFFFE, 0xC003, 12) := by
  decide

/-- E23: `LD BC,0x1234`, R1040. -/
theorem test_e23_ldRrN :
    afterStep (fixture [0x01, 0x34, 0x12] ⟨0x00, ⟨false, false, false, false⟩, 0x00, 0x00, 0x00, 0x00, 0xC1, 0x00⟩ 0xFFFE) =
      some (⟨0x00, ⟨false, false, false, false⟩, 0x12, 0x34, 0x00, 0x00, 0xC1, 0x00⟩, 0xFFFE, 0xC003, 12) := by
  decide

/-- E24: `LD (0xC200),SP`, R1041. -/
theorem test_e24_ldA16Sp :
    afterStep (fixture [0x08, 0x00, 0xC2] ⟨0x00, ⟨false, false, false, false⟩, 0x00, 0x00, 0x00, 0x00, 0xC1, 0x00⟩ 0xFFF8) =
      some (⟨0x00, ⟨false, false, false, false⟩, 0x00, 0x00, 0x00, 0x00, 0xC1, 0x00⟩, 0xFFF8, 0xC003, 20) ∧
    bytesAfter (fixture [0x08, 0x00, 0xC2] ⟨0x00, ⟨false, false, false, false⟩, 0x00, 0x00, 0x00, 0x00, 0xC1, 0x00⟩ 0xFFF8) [0xC200, 0xC201] =
      some [0xF8, 0xFF] := by
  decide

/-- E25: `LD SP,HL`, R1042. -/
theorem test_e25_ldSpHl :
    afterStep (fixture [0xF9] ⟨0x00, ⟨false, false, false, false⟩, 0x00, 0x00, 0x00, 0x00, 0xC1, 0x23⟩ 0xFFFE) =
      some (⟨0x00, ⟨false, false, false, false⟩, 0x00, 0x00, 0x00, 0x00, 0xC1, 0x23⟩, 0xC123, 0xC001, 8) := by
  decide

/-- F1: `JP 0x8000`, R1110. -/
theorem test_f1_jp :
    afterStep (fixture [0xC3, 0x00, 0x80] ⟨0x00, ⟨false, false, false, false⟩, 0x00, 0x00, 0x00, 0x00, 0xC1, 0x00⟩ 0xFFFE) =
      some (⟨0x00, ⟨false, false, false, false⟩, 0x00, 0x00, 0x00, 0x00, 0xC1, 0x00⟩, 0xFFFE, 0x8000, 16) := by
  decide

/-- F2: `JP NZ,0x8000`, R1111. -/
theorem test_f2_jpCc :
    afterStep (fixture [0xC2, 0x00, 0x80] ⟨0x00, ⟨true, false, false, false⟩, 0x00, 0x00, 0x00, 0x00, 0xC1, 0x00⟩ 0xFFFE) =
      some (⟨0x00, ⟨true, false, false, false⟩, 0x00, 0x00, 0x00, 0x00, 0xC1, 0x00⟩, 0xFFFE, 0xC003, 12) := by
  decide

/-- F3: `JP C,0x8000`, R1111. -/
theorem test_f3_jpCc :
    afterStep (fixture [0xDA, 0x00, 0x80] ⟨0x00, ⟨false, false, false, true⟩, 0x00, 0x00, 0x00, 0x00, 0xC1, 0x00⟩ 0xFFFE) =
      some (⟨0x00, ⟨false, false, false, true⟩, 0x00, 0x00, 0x00, 0x00, 0xC1, 0x00⟩, 0xFFFE, 0x8000, 16) := by
  decide

/-- F4: `JP HL`, R1112. -/
theorem test_f4_jpHl :
    afterStep (fixture [0xE9] ⟨0x00, ⟨false, false, false, false⟩, 0x00, 0x00, 0x00, 0x00, 0x80, 0x00⟩ 0xFFFE) =
      some (⟨0x00, ⟨false, false, false, false⟩, 0x00, 0x00, 0x00, 0x00, 0x80, 0x00⟩, 0xFFFE, 0x8000, 4) := by
  decide

/-- F5: `JR -2`, R1113. -/
theorem test_f5_jr :
    afterStep (fixture [0x18, 0xFE] ⟨0x00, ⟨false, false, false, false⟩, 0x00, 0x00, 0x00, 0x00, 0xC1, 0x00⟩ 0xFFFE) =
      some (⟨0x00, ⟨false, false, false, false⟩, 0x00, 0x00, 0x00, 0x00, 0xC1, 0x00⟩, 0xFFFE, 0xC000, 12) := by
  decide

/-- F7: `JR NZ,+5`, R1114. -/
theorem test_f7_jrCc :
    afterStep (fixture [0x20, 0x05] ⟨0x00, ⟨false, false, false, false⟩, 0x00, 0x00, 0x00, 0x00, 0xC1, 0x00⟩ 0xFFFE) =
      some (⟨0x00, ⟨false, false, false, false⟩, 0x00, 0x00, 0x00, 0x00, 0xC1, 0x00⟩, 0xFFFE, 0xC007, 12) := by
  decide

/-- F8: `JR Z,+5`, R1114. -/
theorem test_f8_jrCc :
    afterStep (fixture [0x28, 0x05] ⟨0x00, ⟨false, false, false, false⟩, 0x00, 0x00, 0x00, 0x00, 0xC1, 0x00⟩ 0xFFFE) =
      some (⟨0x00, ⟨false, false, false, false⟩, 0x00, 0x00, 0x00, 0x00, 0xC1, 0x00⟩, 0xFFFE, 0xC002, 8) := by
  decide

/-- F9: `CALL 0x1234`, R1115. -/
theorem test_f9_call :
    afterStep (fixture [0xCD, 0x34, 0x12] ⟨0x00, ⟨false, false, false, false⟩, 0x00, 0x00, 0x00, 0x00, 0xC1, 0x00⟩ 0xFFFE) =
      some (⟨0x00, ⟨false, false, false, false⟩, 0x00, 0x00, 0x00, 0x00, 0xC1, 0x00⟩, 0xFFFC, 0x1234, 24) ∧
    bytesAfter (fixture [0xCD, 0x34, 0x12] ⟨0x00, ⟨false, false, false, false⟩, 0x00, 0x00, 0x00, 0x00, 0xC1, 0x00⟩ 0xFFFE) [0xFFFD, 0xFFFC] =
      some [0xC0, 0x03] := by
  decide

/-- F10: `CALL NC,0x1234`, R1116. -/
theorem test_f10_callCc :
    afterStep (fixture [0xD4, 0x34, 0x12] ⟨0x00, ⟨false, false, false, true⟩, 0x00, 0x00, 0x00, 0x00, 0xC1, 0x00⟩ 0xFFFE) =
      some (⟨0x00, ⟨false, false, false, true⟩, 0x00, 0x00, 0x00, 0x00, 0xC1, 0x00⟩, 0xFFFE, 0xC003, 12) := by
  decide

/-- F11: `CALL Z,0x1234`, R1116. -/
theorem test_f11_callCc :
    afterStep (fixture [0xCC, 0x34, 0x12] ⟨0x00, ⟨true, false, false, false⟩, 0x00, 0x00, 0x00, 0x00, 0xC1, 0x00⟩ 0xFFFE) =
      some (⟨0x00, ⟨true, false, false, false⟩, 0x00, 0x00, 0x00, 0x00, 0xC1, 0x00⟩, 0xFFFC, 0x1234, 24) ∧
    bytesAfter (fixture [0xCC, 0x34, 0x12] ⟨0x00, ⟨true, false, false, false⟩, 0x00, 0x00, 0x00, 0x00, 0xC1, 0x00⟩ 0xFFFE) [0xFFFD, 0xFFFC] =
      some [0xC0, 0x03] := by
  decide

/-- F12: `RET`, R1117. -/
theorem test_f12_ret :
    afterStep (((fixture [0xC9] ⟨0x00, ⟨false, false, false, false⟩, 0x00, 0x00, 0x00, 0x00, 0xC1, 0x00⟩ 0xFFFC).poke 0xFFFC 0x03).poke 0xFFFD 0xC0) =
      some (⟨0x00, ⟨false, false, false, false⟩, 0x00, 0x00, 0x00, 0x00, 0xC1, 0x00⟩, 0xFFFE, 0xC003, 16) := by
  decide

/-- F13: `RET Z`, R1118. -/
theorem test_f13_retCc :
    afterStep (((fixture [0xC8] ⟨0x00, ⟨false, false, false, false⟩, 0x00, 0x00, 0x00, 0x00, 0xC1, 0x00⟩ 0xFFFC).poke 0xFFFC 0x03).poke 0xFFFD 0xC0) =
      some (⟨0x00, ⟨false, false, false, false⟩, 0x00, 0x00, 0x00, 0x00, 0xC1, 0x00⟩, 0xFFFC, 0xC001, 8) := by
  decide

/-- F14: `RET NC`, R1118. -/
theorem test_f14_retCc :
    afterStep (((fixture [0xD0] ⟨0x00, ⟨false, false, false, false⟩, 0x00, 0x00, 0x00, 0x00, 0xC1, 0x00⟩ 0xFFFC).poke 0xFFFC 0x03).poke 0xFFFD 0xC0) =
      some (⟨0x00, ⟨false, false, false, false⟩, 0x00, 0x00, 0x00, 0x00, 0xC1, 0x00⟩, 0xFFFE, 0xC003, 20) := by
  decide

/-- F15: `RETI`, R1119. -/
theorem test_f15_reti :
    afterStep (((fixture [0xD9] ⟨0x00, ⟨false, false, false, false⟩, 0x00, 0x00, 0x00, 0x00, 0xC1, 0x00⟩ 0xFFFC).poke 0xFFFC 0x03).poke 0xFFFD 0xC0) =
      some (⟨0x00, ⟨false, false, false, false⟩, 0x00, 0x00, 0x00, 0x00, 0xC1, 0x00⟩, 0xFFFE, 0xC003, 16) ∧
    hiddenAfter (((fixture [0xD9] ⟨0x00, ⟨false, false, false, false⟩, 0x00, 0x00, 0x00, 0x00, 0xC1, 0x00⟩ 0xFFFC).poke 0xFFFC 0x03).poke 0xFFFD 0xC0) =
      some (true, 0, false, false, false) := by
  decide

/-- F16: `RST 0x38`, R1120. -/
theorem test_f16_rst :
    afterStep (fixture [0xFF] ⟨0x00, ⟨false, false, false, false⟩, 0x00, 0x00, 0x00, 0x00, 0xC1, 0x00⟩ 0xFFFE) =
      some (⟨0x00, ⟨false, false, false, false⟩, 0x00, 0x00, 0x00, 0x00, 0xC1, 0x00⟩, 0xFFFC, 0x0038, 16) ∧
    bytesAfter (fixture [0xFF] ⟨0x00, ⟨false, false, false, false⟩, 0x00, 0x00, 0x00, 0x00, 0xC1, 0x00⟩ 0xFFFE) [0xFFFD, 0xFFFC] =
      some [0xC0, 0x01] := by
  decide

/-- G2: `PUSH AF`, R1210. -/
theorem test_g2_push :
    afterStep (fixture [0xF5] ⟨0x12, ⟨true, false, false, true⟩, 0x00, 0x00, 0x00, 0x00, 0xC1, 0x00⟩ 0xFFFE) =
      some (⟨0x12, ⟨true, false, false, true⟩, 0x00, 0x00, 0x00, 0x00, 0xC1, 0x00⟩, 0xFFFC, 0xC001, 16) ∧
    bytesAfter (fixture [0xF5] ⟨0x12, ⟨true, false, false, true⟩, 0x00, 0x00, 0x00, 0x00, 0xC1, 0x00⟩ 0xFFFE) [0xFFFD, 0xFFFC] =
      some [0x12, 0x90] := by
  decide

/-- G3: `POP AF`, R1211. -/
theorem test_g3_pop :
    afterStep (((fixture [0xF1] ⟨0x00, ⟨false, false, false, false⟩, 0x00, 0x00, 0x00, 0x00, 0xC1, 0x00⟩ 0xFFFC).poke 0xFFFC 0xFF).poke 0xFFFD 0x12) =
      some (⟨0x12, ⟨true, true, true, true⟩, 0x00, 0x00, 0x00, 0x00, 0xC1, 0x00⟩, 0xFFFE, 0xC001, 12) := by
  decide

/-- G6: `POP BC`, R1211. -/
theorem test_g6_pop :
    afterStep ({ fixture [0xC1] ⟨0x00, ⟨false, false, false, false⟩, 0x00, 0x00, 0x00, 0x00, 0xC1, 0x00⟩ 0xFFFF with ie := 0x1F }) =
      some (⟨0x00, ⟨false, false, false, false⟩, 0x00, 0x1F, 0x00, 0x00, 0xC1, 0x00⟩, 0x0001, 0xC001, 12) := by
  decide

/-- H1: `NOP`, R1310. -/
theorem test_h1_nop :
    afterStep (fixture [0x00] ⟨0x00, ⟨false, false, false, false⟩, 0x00, 0x00, 0x00, 0x00, 0xC1, 0x00⟩ 0xFFFE) =
      some (⟨0x00, ⟨false, false, false, false⟩, 0x00, 0x00, 0x00, 0x00, 0xC1, 0x00⟩, 0xFFFE, 0xC001, 4) := by
  decide

/-- H2: `STOP`, R1311. -/
theorem test_h2_stop :
    afterStep (fixture [0x10, 0x00] ⟨0x00, ⟨false, false, false, false⟩, 0x00, 0x00, 0x00, 0x00, 0xC1, 0x00⟩ 0xFFFE) =
      some (⟨0x00, ⟨false, false, false, false⟩, 0x00, 0x00, 0x00, 0x00, 0xC1, 0x00⟩, 0xFFFE, 0xC002, 4) ∧
    hiddenAfter (fixture [0x10, 0x00] ⟨0x00, ⟨false, false, false, false⟩, 0x00, 0x00, 0x00, 0x00, 0xC1, 0x00⟩ 0xFFFE) =
      some (false, 0, false, false, true) := by
  decide

/-- H3: `HALT`, R1312. -/
theorem test_h3_halt :
    afterStep (fixture [0x76] ⟨0x00, ⟨false, false, false, false⟩, 0x00, 0x00, 0x00, 0x00, 0xC1, 0x00⟩ 0xFFFE) =
      some (⟨0x00, ⟨false, false, false, false⟩, 0x00, 0x00, 0x00, 0x00, 0xC1, 0x00⟩, 0xFFFE, 0xC001, 4) ∧
    hiddenAfter (fixture [0x76] ⟨0x00, ⟨false, false, false, false⟩, 0x00, 0x00, 0x00, 0x00, 0xC1, 0x00⟩ 0xFFFE) =
      some (false, 0, true, false, false) := by
  decide

/-- H4: `HALT`, R1312. -/
theorem test_h4_halt :
    afterStep ({ fixture [0x76] ⟨0x00, ⟨false, false, false, false⟩, 0x00, 0x00, 0x00, 0x00, 0xC1, 0x00⟩ 0xFFFE with ie := 0x04, ifl := 0x04 }) =
      some (⟨0x00, ⟨false, false, false, false⟩, 0x00, 0x00, 0x00, 0x00, 0xC1, 0x00⟩, 0xFFFE, 0xC001, 4) ∧
    hiddenAfter ({ fixture [0x76] ⟨0x00, ⟨false, false, false, false⟩, 0x00, 0x00, 0x00, 0x00, 0xC1, 0x00⟩ 0xFFFE with ie := 0x04, ifl := 0x04 }) =
      some (false, 0, false, true, false) := by
  decide

/-- H5: `DI`, R1313. -/
theorem test_h5_di :
    afterStep ({ fixture [0xF3] ⟨0x00, ⟨false, false, false, false⟩, 0x00, 0x00, 0x00, 0x00, 0xC1, 0x00⟩ 0xFFFE with ime := true }) =
      some (⟨0x00, ⟨false, false, false, false⟩, 0x00, 0x00, 0x00, 0x00, 0xC1, 0x00⟩, 0xFFFE, 0xC001, 4) ∧
    hiddenAfter ({ fixture [0xF3] ⟨0x00, ⟨false, false, false, false⟩, 0x00, 0x00, 0x00, 0x00, 0xC1, 0x00⟩ 0xFFFE with ime := true }) =
      some (false, 0, false, false, false) := by
  decide

/-- H6: `EI`, R1314. -/
theorem test_h6_ei :
    afterStep (fixture [0xFB] ⟨0x00, ⟨false, false, false, false⟩, 0x00, 0x00, 0x00, 0x00, 0xC1, 0x00⟩ 0xFFFE) =
      some (⟨0x00, ⟨false, false, false, false⟩, 0x00, 0x00, 0x00, 0x00, 0xC1, 0x00⟩, 0xFFFE, 0xC001, 4) ∧
    hiddenAfter (fixture [0xFB] ⟨0x00, ⟨false, false, false, false⟩, 0x00, 0x00, 0x00, 0x00, 0xC1, 0x00⟩ 0xFFFE) =
      some (false, 1, false, false, false) := by
  decide

/-! ### The step: `95_test_vectors.md` L1.2, L2.9 -/

/-- Registers of the conventional start: HL at 0xC100, everything else 0. -/
def plainRegs : Regs := ⟨0x00, ⟨false, false, false, false⟩, 0x00, 0x00, 0x00, 0x00, 0xC1, 0x00⟩

/-- L1.2, first instance: the lowest of two pending interrupts is taken. -/
theorem test_l1_2_dispatch :
    let s := { fixture [0x00] plainRegs 0xFFFE with ime := true, ie := 0x1F, ifl := 0x06 }
    afterStep s = some (plainRegs, 0xFFFC, 0x0048, 20) ∧ bytesAfter s [0xFFFD, 0xFFFC, 0xFF0F] = some [0xC0, 0x00, 0xE4] ∧
      hiddenAfter s = some (false, 0, false, false, false) := by decide +kernel

/-- L1.2, fourth instance: IE bits 7-5 enable nothing. -/
theorem test_l1_2_upper_enables :
    afterStep { fixture [0x00] plainRegs 0xFFFE with ime := true, ie := 0xE0, ifl := 0x1F } =
      some (plainRegs, 0xFFFE, 0xC001, 4) := by decide

/-- J2, second step: under the HALT bug the byte after HALT is fetched and pc stays. -/
theorem test_j2_halt_bug :
    let s := { fixture [0x76, 0x3C] plainRegs 0xFFFE with pc := 0xC001, haltBug := true, ie := 0x04, ifl := 0x04 }
    afterStep s = some ({ plainRegs with a := 0x01 }, 0xFFFE, 0xC001, 4) ∧
      hiddenAfter s = some (false, 0, false, false, false) := by decide

/-- J3, third step: a dispatch under the HALT bug pushes the address of the HALT. -/
theorem test_j3_dispatch_under_halt_bug :
    let s := { fixture [0xFB, 0x76] plainRegs 0xFFFE with pc := 0xC002, haltBug := true, ime := true, ie := 0x01, ifl := 0x01 }
    afterStep s = some (plainRegs, 0xFFFC, 0x0040, 20) ∧ bytesAfter s [0xFFFD, 0xFFFC] = some [0xC0, 0x01] := by decide

/-- J4, second step: a requested interrupt ends the halt although IME is 0, and is not taken. -/
theorem test_j4_halted_step :
    let s := { fixture [0x76, 0x04] plainRegs 0xFFFE with pc := 0xC001, halted := true, ie := 0x01, ifl := 0x01 }
    afterStep s = some (plainRegs, 0xFFFE, 0xC001, 4) ∧ hiddenAfter s = some (false, 0, false, false, false) := by decide

/-- J5, the step in which the timer overflows: the halted step ends with the request. -/
theorem test_j5_timer_wakes :
    let s := { fixture [0x76, 0x00] plainRegs 0xFFFE with
      pc := 0xC001, halted := true, ime := true, ie := 0x04, timer := ⟨12, 0xFF, 0x10, 5⟩ }
    hiddenAfter s = some (true, 0, true, false, false) ∧ bytesAfter s [0xFF05, 0xFF0F] = some [0x10, 0xE4] := by decide

/-- The execution-fatal mark, pc and total after a step. -/
def markAfter (s : State) : Option (Option Fatal × Word × Nat) :=
  match step s with
  | .next t => some (t.fatal, t.pc, t.totalCycles)
  | _ => none

/-- J7: an illegal opcode marks the machine and commits nothing; for each of the eleven. -/
theorem test_j7_illegal :
    (illegalOpcodes.map fun x => markAfter (fixture [x.2] plainRegs 0xFFFE)) =
      illegalOpcodes.map fun x => some (some (.illegalOpcode x.2 0xC000), 0xC000, 0) := by decide +kernel

/-- J7: no later step is taken. -/
theorem test_j7_no_later_step (s : State) (r : Fatal) : step { s with fatal := some r } = .fault (.executionFatal r) := rfl

/-- J8: DI cancels a running delay of EI. -/
theorem test_j8_di_cancels :
    hiddenAfter { fixture [0xF3] plainRegs 0xFFFE with eiDelay := 1 } = some (false, 0, false, false, false) := by decide

/-- J9: STOP resets the divider. -/
theorem test_j9_stop :
    let s := { fixture [0x10, 0x00] plainRegs 0xFFFE with timer := ⟨0x1234, 0, 0, 0⟩ }
    hiddenAfter s = some (false, 0, false, false, true) ∧ bytesAfter s [0xFF04] = some [0x00] := by decide

/-- R1315: the prefix row reads its second byte and runs the instruction it names (SWAP A). -/
theorem test_prefix : (match exec .prefixCb (fixture [0xCB, 0x37] { plainRegs with a := 0x5A } 0xFFFE) with
    | .next t => some (t.regs.a, t.pc, t.cycles)
    | _ => none) = some (0xA5, 0xC002, 8) := by decide

/-- A placed word is what the next step runs, from reset (log 20). -/
theorem test_withFetchWord : afterStep (State.reset.withFetchWord 16 0x42C6) =
    some ({ State.reset.regs with a := 0x43, f := ⟨false, false, false, false⟩ }, 0xFFFE, 0x0102, 8) := by decide

/-! ### Timer: `95_test_vectors.md` L2.10 -/

/-- TIMA, the counter and IF after a write. -/
def timerAfter (s : State) (a : Word) (v : Byte) : Option (Byte × Word × BitVec 5) :=
  match s.write a v with
  | .ok t => some (t.timer.tima, t.timer.counter, t.ifl)
  | .error _ => none

/-- The conventional start with this timer. -/
def withTimerOf (counter : Word) (tima tma : Byte) (tac : BitVec 3) : State :=
  { fixture [0x00] plainRegs 0xFFFE with timer := ⟨counter, tima, tma, tac⟩ }

/-- K2, K3: a write of DIV with the tapped bit 1, and 0. -/
theorem test_k2_k3_div : timerAfter (withTimerOf 0xABCC 0x10 0 5) 0xFF04 0x77 = some (0x11, 0, 0) ∧
    timerAfter (withTimerOf 0xABC0 0x10 0 5) 0xFF04 0x77 = some (0x10, 0, 0) := by decide

/-- K4-K7: writes of TAC that disable, retap to a 0, retap to a 1, and enable. -/
theorem test_k4_k7_tac : timerAfter (withTimerOf 0x0008 0x10 0 5) 0xFF07 0x00 = some (0x11, 0x0008, 0) ∧
    timerAfter (withTimerOf 0x0008 0x10 0 5) 0xFF07 0x04 = some (0x11, 0x0008, 0) ∧
    timerAfter (withTimerOf 0x0208 0x10 0 4) 0xFF07 0x05 = some (0x10, 0x0208, 0) ∧
    timerAfter (withTimerOf 0x0008 0x10 0 1) 0xFF07 0x05 = some (0x10, 0x0008, 0) := by decide

/-- K10, second advance: the reload and the request come with the edge. -/
theorem test_k10_overflow :
    let t := (withTimerOf 16 0xFF 0x42 5).timerAdvance 16
    t.timer.tima = 0x42 ∧ t.ifl = 0x04 := by decide +kernel

/-! ### Picture unit: `95_test_vectors.md` L2.11 -/

/-- The conventional start with the display just turned on by a write of 0x80. -/
def displayOn : State := (fixture [0x00] plainRegs 0xFFFE).writeLcdc 0x80

/-- P1, P2: mode 2 to dot 79, mode 3 from dot 80, as STAT reads them. -/
theorem test_p1_p2_stat :
    (displayOn.ppuAdvance 79).peek 0xFF41 = .byte 0x86 ∧ (displayOn.ppuAdvance 80).peek 0xFF41 = .byte 0x87 := by decide +kernel

/-- P5, P9, its last cycle: line 2 begins, and equals LYC. -/
theorem test_p9_lyc :
    let s := { displayOn with ppu := { displayOn.ppu with dot := 455, ly := 1, mode := .hblank, statSel := 8, lyc := 2 } }
    let t := s.ppuAdvance 1
    t.ppu.ly = 2 ∧ t.ppu.dot = 0 ∧ t.ppu.mode = .oamScan ∧ t.ppu.coinc = true ∧ t.ifl = 0x02 := by decide

/-- P7, its last cycle: line 144 begins with both requests. -/
theorem test_p7_vblank :
    let s := { displayOn with ppu := { displayOn.ppu with dot := 455, ly := 143, mode := .hblank, statSel := 2, lyc := 9 } }
    let t := s.ppuAdvance 1
    t.ppu.ly = 144 ∧ t.ppu.mode = .vblank ∧ t.ifl = 0x03 := by decide

/-- P10: a write of LYC that makes the flag 1 requests at once. -/
theorem test_p10_lyc_write :
    let s := { displayOn with ppu := { displayOn.ppu with statSel := 8, lyc := 5, coinc := false } }
    (s.writeLyc 0).ifl = 0x02 ∧ (s.writeLyc 0).peek 0xFF41 = .byte 0xC6 := by decide

/-- P11: turning the display off. -/
theorem test_p11_off :
    let s := { displayOn with ppu := { displayOn.ppu with dot := 88, ly := 2, coinc := false } }
    (s.writeLcdc 0).ppu.ly = 0 ∧ (s.writeLcdc 0).ppu.dot = 0 ∧ (s.writeLcdc 0).peek 0xFF41 = .byte 0x80 := by decide

/-- The picture of P13: tile 0 row 0 of index `tile0`, tile 1 row 0 with index 3 in column 0, the map cells of the first
tiles 0, one sprite at X 18 with these attributes. -/
def pictured (lo : Byte) (attr : Byte) : Video :=
  { vram := [(0, lo), (1, 0), (16, 0x80), (17, 0x80), (0x1800, 0), (0x1801, 0)]
    oam := [(0, 16), (1, 18), (2, 1), (3, attr)]
    bgPal := [], objPal := [], cgb := false, mode3 := .constant 0 }

/-- The registers of P13: LCDC 0x93, BGP and OBP0 0xE4. -/
def pictureRegs : Ppu := { State.reset.ppu with lcdc := 0x93, bgp := 0xE4, obp0 := 0xE4 }

/-- P13-P15: a sprite's pixel, the same behind background index 1, and behind background index 0. -/
theorem test_p13_p15_sprite :
    let row (v : Video) := [8, 9, 10, 11, 12].map fun x => v.pixel pictureRegs [v.sprite 0] x 0
    row (pictured 0xFF 0x00) = [1, 1, 3, 1, 1] ∧ row (pictured 0xFF 0x80) = [1, 1, 1, 1, 1] ∧
      row (pictured 0x00 0x80) = [0, 0, 3, 0, 0] := by decide

/-! ### Memory and cartridge: `95_test_vectors.md` L1.5, L1.6, L2.12 -/

/-- A machine with this controller, `rom` a 64 KiB image and `ram` bytes of external RAM. -/
def carted (ctrl : Controller) (ram : Nat) : State :=
  { fixture [0x00] plainRegs 0xFFFE with
    cart := { ctrl := ctrl, battery := false, romLen := 0x10000, ram := [], ramLen := ram,
              rom := [(0x0000, 0), (0x4000, 1), (0x8000, 2), (0xC000, 3)] } }

/-- What an address reads after some writes, in order. -/
def readsAfter (s : State) (writes : List (Word × Byte)) (a : Word) : Option ReadResult :=
  match writes.foldlM (fun t (x : Word × Byte) => t.write x.1 x.2) s with
  | .ok t => some (t.peek a)
  | .error _ => none

/-- L1.5: MBC1 and MBC5 bank selects, wrapped at the image's length. -/
theorem test_l1_5_banks :
    ([0x00, 0x02, 0x04, 0x1F, 0x20].map fun v => readsAfter (carted ctrlMbc1 0) [(0x2000, v)] 0x4000) =
      [some (.byte 1), some (.byte 2), some (.byte 0), some (.byte 3), some (.byte 1)] ∧
    readsAfter (carted (ctrlMbc5 false) 0) [(0x2000, 0)] 0x4000 = some (.byte 0) ∧
    readsAfter (carted (ctrlMbc5 false) 0) [(0x2000, 6)] 0x4000 = some (.byte 2) ∧
    readsAfter (carted (ctrlMbc5 false) 0) [(0x2000, 1), (0x3000, 1)] 0x4000 = some (.byte 1) := by decide

/-- L1.6: echo RAM both ways. -/
theorem test_l1_6_echo :
    readsAfter (fixture [] plainRegs 0xFFFE) [(0xC123, 0x5A)] 0xE123 = some (.byte 0x5A) ∧
      readsAfter (fixture [] plainRegs 0xFFFE) [(0xFDFF, 0xA5)] 0xDDFF = some (.byte 0xA5) := by decide

/-- M1, M2, M4-M9: the gap, unmapped registers, and external RAM under MBC1 and MBC5. -/
theorem test_m_reads :
    readsAfter (carted ctrlMbc1 0x2000) [(0xFEA0, 0x12)] 0xFEA0 = some (.byte 0xFF) ∧
    readsAfter (carted ctrlMbc1 0x2000) [] 0xFF03 = some (.byte 0xFF) ∧
    readsAfter (carted ctrlMbc1 0x2000) [] 0xA000 = some (.byte 0xFF) ∧
    readsAfter (carted ctrlMbc1 0x2000) [(0x0000, 0x1A), (0xA000, 0x55)] 0xA000 = some (.byte 0x55) ∧
    readsAfter (carted ctrlMbc1 0x2000) [(0x0000, 0x0A), (0xA000, 0x55), (0x0000, 0x00)] 0xA000 = some (.byte 0xFF) ∧
    readsAfter (carted (ctrlMbc5 false) 0x2000) [(0x0000, 0x1A)] 0xA000 = some (.byte 0xFF) ∧
    readsAfter (carted (ctrlMbc5 false) 0x2000) [(0x0000, 0x0A), (0xA000, 0x66)] 0xA000 = some (.byte 0x66) := by decide

/-- M10, on ROM page 0x40: OAM DMA copies the first byte of the page and the last before the page's end. -/
theorem test_m10_dma :
    readsAfter (carted ctrlMbc1 0) [(0xFF46, 0x40)] 0xFE00 = some (.byte 1) ∧
      readsAfter (carted ctrlMbc1 0) [(0xFF46, 0x40)] 0xFE9F = some (.byte 0) ∧
      readsAfter (carted ctrlMbc1 0) [(0xFF46, 0x40)] 0xFF46 = some (.byte 0x40) := by decide +kernel

/-- `20_memory.md` R403: what the load accepts and refuses. -/
theorem test_load :
    let img (type cgb rom : Byte) : Image := { bytes := [(0x143, cgb), (0x147, type), (0x148, rom)], len := 0x8000 }
    let run (x : LoadArgs) : Option LoadError := match load x with | .ok _ => none | .error e => some e
    run LoadArgs.default = none ∧
    run { LoadArgs.default with rom := { bytes := [], len := 0x14F } } = some .imageTooShort ∧
    run { LoadArgs.default with rom := img 0x04 0 0 } = some (.unsupportedType 0x04) ∧
    run { LoadArgs.default with rom := img 0x01 0 9 } = some (.badRomSize 9) ∧
    run { LoadArgs.default with rom := img 0x01 0 0, hw := .cgb } = some .cgbCompatibility ∧
    run { LoadArgs.default with rom := img 0x01 0x80 0, hw := .cgb } = none := by decide

/-- R460: a rumble MBC5 whose RAM bank is 8, which its command never stores, raises the invariant violation. -/
theorem test_r460_rumble_bank :
    markAfter (carted (.mbc5 true true 1 8) 0x20000) = some (some (.invariantViolation .bankLatch 8), 0xC000, 0) ∧
      markAfter (carted (.mbc5 false true 1 8) 0x20000) = some (none, 0xC001, 4) := by decide

/-- R1792: nothing runs while stopped; a serial transfer stays in progress, and no draw is taken. -/
theorem test_r1792_stopped :
    let s := { fixture [0x00] plainRegs 0xFFFE with stopped := true, serial := ⟨0x5A, true, false, true⟩ }
    step s = .next { s with cycles := 0 } := rfl

/-- R191, R1624: the window's line counter after a row that shows the window, at its last value. -/
theorem test_r191_win_line : nextWinLine 142 = 143 ∧ nextWinLine 143 = 0 := by decide

/-- R20: the state record given at load is where execution starts. -/
theorem test_r20_post_boot :
    (match load { LoadArgs.default with postBoot := some { fixture [0x00] plainRegs 0xDFFE with pc := 0x0150 } } with
      | .ok s => some (s.regs, s.sp, s.pc, s.bootMapped, s.cart.romLen)
      | .error _ => none) = some (plainRegs, 0xDFFE, 0x0150, false, 0x8000) := by decide

/-- R1601: MODE3_LEN is taken as dot 80 is reached, and holds where mode 3 ends. -/
theorem test_r1601_mode3_len :
    let s := { displayOn with
      cfg := { displayOn.cfg with mode3 := .constant 117 }, ppu := { displayOn.ppu with dot := 79, ly := 3 } }
    (s.ppuAdvance 1).ppu.mode3Len = 289 ∧ (s.ppuAdvance 1).ppu.mode = .transfer ∧
      ({ s.ppuAdvance 1 with ppu := { (s.ppuAdvance 1).ppu with dot := 368 } }.ppuAdvance 1).ppu.mode = .hblank := by
  decide +kernel

/-! ### Witnesses: for every statement with hypotheses, inputs that meet them -/

/-- The conventional start at a NOP. -/
def plain : State := fixture [0x00] plainRegs 0xFFFE

/-- An MBC3 with its RAM enabled and a clock register selected: every access at 0xA000-0xBFFF is refused. -/
def clocked : State := carted (.mbc3 true 1 8) 0x2000

/-- CGB mode. -/
def cgbPlain : State := { plain with cfg := { plain.cfg with hw := .cgb, cgbMode := true } }

/-- A read that gives a byte, and one that is refused, at HL: what `Loads` supposes. -/
theorem witness_loads : (∃ b u, plain.read plain.regs.hl = .ok (b, u)) ∧
    (∃ s : State, s.regs.hl = 0xA000 ∧ s.read s.regs.hl = .error .mbc3Clock) :=
  ⟨⟨_, _, rfl⟩, { clocked with regs := { plainRegs with h := 0xA0 } }, rfl, rfl⟩

/-- The loads from BC, DE, an immediate address, the high page and C: each address can be read, and the first three can
be refused. -/
theorem witness_MemoryLoadResults :
    (∃ b u, plain.read plain.regs.bc = .ok (b, u)) ∧ (∃ b u, plain.read plain.regs.de = .ok (b, u)) ∧
      (∃ b u, plain.read 0xC100 = .ok (b, u)) ∧ (∃ b u, plain.read (0xFF#8 ++ 0x80#8) = .ok (b, u)) ∧
      (∃ b u, plain.read (0xFF#8 ++ plain.regs.c) = .ok (b, u)) ∧ clocked.read 0xBFFF = .error .mbc3Clock :=
  ⟨⟨_, _, rfl⟩, ⟨_, _, rfl⟩, ⟨_, _, rfl⟩, ⟨_, _, rfl⟩, ⟨_, _, rfl⟩, rfl⟩

theorem witness_AddAdcResults : ∃ b u, plain.read plain.regs.hl = .ok (b, u) := ⟨_, _, rfl⟩
theorem witness_SubSbcCpResults : ∃ b u, plain.read plain.regs.hl = .ok (b, u) := ⟨_, _, rfl⟩
theorem witness_AndXorOrResults : ∃ b u, plain.read plain.regs.hl = .ok (b, u) := ⟨_, _, rfl⟩

/-- What `Modifies` supposes: a read and a write of it back that are taken, a read that is refused, and a write back
that is, the DMA register rotated from 0xE5. -/
theorem witness_modifies :
    (∃ v u w, plain.read 0xC100 = .ok (v, u) ∧ u.write 0xC100 (v + 1) = .ok w) ∧ clocked.read 0xA000 = .error .mbc3Clock ∧
      ∃ u, { plain with dma := 0xE5 }.read 0xFF46 = .ok (0xE5, u) ∧ u.write 0xFF46 (0xE5 + 1) = .error .oamDmaSource :=
  ⟨⟨_, _, _, rfl, rfl⟩, rfl, _, rfl, rfl⟩

theorem witness_IncDecByteResults :
    ∃ v u w, plain.read plain.regs.hl = .ok (v, u) ∧ u.write plain.regs.hl (v + 1) = .ok w := ⟨_, _, _, rfl, rfl⟩
theorem witness_ShiftMemoryResults :
    ∃ v u w, plain.read plain.regs.hl = .ok (v, u) ∧ u.write plain.regs.hl (BitVec.ofNat 8 (shifted .srl v true).1) = .ok w :=
  ⟨_, _, _, rfl, rfl⟩
theorem witness_BitResSetResults :
    ∃ v u w, plain.read plain.regs.hl = .ok (v, u) ∧ u.write plain.regs.hl (v ||| BitVec.ofNat 8 (2 ^ 7)) = .ok w :=
  ⟨_, _, _, rfl, rfl⟩

/-- The words of WordArithmeticResults' second clause: two different pairs. -/
theorem witness_WordArithmeticResults : Reg16.sp ≠ Reg16.bc := by decide

/-- The members of the lists the shift statements run over, first and last. -/
theorem witness_RotateShiftRegisterResults :
    (Instr.rra, (0x1F : Byte), ShiftOp.rr) ∈
        [(Instr.rlca, (0x07 : Byte), ShiftOp.rlc), (.rrca, 0x0F, .rrc), (.rla, 0x17, .rl), (.rra, 0x1F, .rr)] := by decide

/-- What `StoresByte` and `StoresTwo` suppose: a write taken, one refused, and of two the second refused. -/
theorem witness_StoreResults :
    (∃ u, plain.write 0xC100 0x5A = .ok u) ∧ plain.write 0xFF46 0xE0 = .error .oamDmaSource ∧
      (∃ u w, plain.write 0xC100 0x01 = .ok u ∧ u.write 0xC101 0x02 = .ok w) ∧
      ∃ u, plain.write 0xFF45 0x01 = .ok u ∧ u.write 0xFF46 0xE0 = .error .oamDmaSource :=
  ⟨⟨_, rfl⟩, rfl, ⟨_, _, rfl, rfl⟩, _, rfl, rfl⟩

/-- Every condition taken and not taken. -/
theorem witness_JumpResults :
    let f (z c : Bool) : Flags := ⟨z, false, false, c⟩
    (f false false).z = false ∧ (f true false).z = true ∧ (f false false).c = false ∧ (f false true).c = true :=
  ⟨rfl, rfl, rfl, rfl⟩

/-- What `Pushes` supposes: both writes taken, the first refused, the second refused. -/
theorem witness_CallRstResults :
    (∃ u w, plain.write (plain.sp - 1) 0xC0 = .ok u ∧ u.write (plain.sp - 2) 0x03 = .ok w) ∧
      (∃ s : State, s.sp = 0xFF47 ∧ s.write (s.sp - 1) 0xE0 = .error .oamDmaSource) ∧
      ∃ s : State, s.sp = 0xFF48 ∧ ∃ u, s.write (s.sp - 1) 0x01 = .ok u ∧ u.write (s.sp - 2) 0xE0 = .error .oamDmaSource :=
  ⟨⟨_, _, rfl, rfl⟩, ⟨{ plain with sp := 0xFF47 }, rfl, rfl⟩, { plain with sp := 0xFF48 }, rfl, _, rfl, rfl⟩

/-- What `Pops` supposes: both reads taken, the first refused, the second refused. -/
theorem witness_ReturnResults :
    (∃ lo u hi w, plain.read plain.sp = .ok (lo, u) ∧ u.read (plain.sp + 1) = .ok (hi, w)) ∧
      (∃ s : State, s.sp = 0xA000 ∧ s.read s.sp = .error .mbc3Clock) ∧
      ∃ s : State, s.sp = 0x9FFF ∧ ∃ lo u, s.read s.sp = .ok (lo, u) ∧ u.read (s.sp + 1) = .error .mbc3Clock :=
  ⟨⟨_, _, _, _, rfl, rfl⟩, ⟨{ clocked with sp := 0xA000 }, rfl, rfl⟩, { clocked with sp := 0x9FFF }, rfl, _, _, rfl, rfl⟩

theorem witness_PushPopResults :
    (∃ u w, plain.write (plain.sp - 1) 0xC0 = .ok u ∧ u.write (plain.sp - 2) 0x03 = .ok w) ∧
      ∃ lo u hi w, plain.read plain.sp = .ok (lo, u) ∧ u.read (plain.sp + 1) = .ok (hi, w) :=
  ⟨⟨_, _, rfl, rfl⟩, _, _, _, _, rfl, rfl⟩

/-- STOP and HALT: IME off with an interrupt pending, and not; a stopped machine; a halted one with and without; one under
the HALT bug. -/
theorem witness_StopHaltResults :
    { plain with haltBug := true }.haltBug = true ∧
    (∃ s : State, s.ime = false ∧ s.Pending) ∧ (∃ s : State, ¬(s.ime = false ∧ s.Pending)) ∧
      (∃ s : State, s.Live ∧ s.stopped = true) ∧ (∃ s : State, s.Live ∧ s.stopped = false ∧ s.halted = true ∧ s.Pending) ∧
      ∃ s : State, s.Live ∧ s.stopped = false ∧ s.halted = true ∧ ¬s.Pending := by
  refine ⟨rfl, ⟨{ plain with ie := 0x10, ifl := 0x10 }, rfl, 4, by decide, rfl, rfl⟩, ⟨{ plain with ime := true }, ?_⟩,
    ⟨{ plain with stopped := true }, ⟨rfl, rfl, rfl⟩, rfl⟩,
    ⟨{ plain with halted := true, ie := 1, ifl := 1 }, ⟨rfl, rfl, rfl⟩, rfl, rfl, 0, by decide, rfl, rfl⟩,
    ⟨{ plain with halted := true, ie := 0 }, ⟨rfl, rfl, rfl⟩, rfl, rfl, ?_⟩⟩
  · rintro ⟨h, -⟩; cases h
  · rintro ⟨k, -, h, -⟩
    have h' : (0#8).getLsbD k = true := h
    simp at h'

/-- The prefix byte before a shift of B, of the byte at HL taken, and of the byte at HL refused. -/
theorem witness_PrefixRunsSecondary :
    (∃ u, (fixture [0xCB, 0x00] plainRegs 0xFFFE).read 0xC001 = .ok (0x00, u)) ∧ decode [0xCB, 0x06] = .ok (.rlcHl, []) ∧
      (∃ t, exec .rlcHl plain = .next t ∧ t.refused = none) ∧
      ∃ t, exec .rlcHl { clocked with regs := { plainRegs with h := 0xA0 } } = .next t ∧ t.refused ≠ none :=
  ⟨⟨_, rfl⟩, rfl, ⟨_, rfl, rfl⟩, _, rfl, by decide⟩

/-- A machine at an illegal opcode. -/
theorem witness_IllegalOpcodesFault : ∀ x ∈ illegalOpcodes,
    (fixture [x.2] plainRegs 0xFFFE).Live ∧ (fixture [x.2] plainRegs 0xFFFE).Executes ∧
      (fixture [x.2] plainRegs 0xFFFE).peek 0xC000 = .byte x.2 := by
  simp only [illegalOpcodes, List.mem_cons, List.not_mem_nil, or_false, forall_eq_or_imp, forall_eq]
  repeat' apply And.intro
  all_goals first | rfl | (intro h; cases h)

theorem witness_RegisterFrame : Instr.daa ≠ .prefixCb ∧ (∃ t, exec .daa plain = .next t) ∧ Reg8.b ∉ regDests .daa ∧
    (flagDests .daa).n = false ∧ (flagDests .cpl).z = false ∧ (flagDests .cpl).c = false ∧ (flagDests (.ldRR .a .b)).h = false ∧
    writesSp .daa = false :=
  ⟨by decide, ⟨_, rfl⟩, by decide, rfl, rfl, rfl, rfl, rfl⟩

/-- An instruction that stores nothing, one that stores to work RAM, and an address that reaches another byte. -/
theorem witness_MemoryFrame :
    (∃ t, exec .nop plain = .next t ∧ plain.stores .nop = []) ∧
      (∃ t, exec (.push .bc) plain = .next t) ∧ (∀ a ∈ plain.stores (.push .bc), plain.PlainRam (plain.target a)) ∧
      (∀ a ∈ plain.stores (.push .bc), plain.target 0xC000 ≠ plain.target a) := by
  refine ⟨⟨_, rfl, rfl⟩, ⟨_, rfl⟩, ?_, ?_⟩ <;> intro a ha <;>
    rcases List.mem_cons.1 ha with rfl | ha <;> try (rcases List.mem_cons.1 ha with rfl | ha <;> try cases ha)
  all_goals first | exact trivial | decide

/-- Plain RAM of every kind: video memory and OAM free and unlocked, external RAM, work RAM, high RAM, IE. The ends of
each bank of work RAM in DMG mode and in CGB mode, and of high RAM, and the byte each reaches. -/
theorem witness_RamWriteReadsBack :
    plain.cfg.cgbMode = false ∧ (plain.target 0xC000 = .wram 0 ∧ plain.target 0xCFFF = .wram 0x0FFF) ∧
      (plain.target 0xD000 = .wram 0x1000 ∧ plain.target 0xDFFF = .wram 0x1FFF) ∧
      (plain.target 0xFF80 = .hram 0 ∧ plain.target 0xFFFE = .hram 126 ∧ plain.target 0xFFFF = .ie) ∧
      (cgbPlain.target 0xFF80 = .hram 0 ∧ cgbPlain.target 0xFFFE = .hram 126 ∧ cgbPlain.target 0xFFFF = .ie) ∧
      (cgbPlain.PlainRam (cgbPlain.target 0xC000) ∧ cgbPlain.PlainRam (cgbPlain.target 0xDFFF)) ∧
    plain.PlainRam (plain.target 0x8000) ∧ plain.PlainRam (plain.target 0xFE9F) ∧
      (carted (.mbc1 true 1 0 false) 0x2000).PlainRam ((carted (.mbc1 true 1 0 false) 0x2000).target 0xBFFF) ∧
      plain.PlainRam (plain.target 0xC000) ∧ plain.PlainRam (plain.target 0xFDFF) ∧ plain.PlainRam (plain.target 0xFFFE) ∧
      plain.PlainRam (plain.target 0xFFFF) :=
  ⟨rfl, ⟨rfl, rfl⟩, ⟨rfl, rfl⟩, ⟨rfl, rfl, rfl⟩, ⟨rfl, rfl, rfl⟩, ⟨trivial, trivial⟩,
    .inl rfl, .inl rfl, trivial, trivial, trivial, trivial, trivial⟩

/-- A read that gives a byte, and one that draws; the ends of the audio registers and of the wave RAM. -/
theorem witness_ReadsHaveNoSideEffect : (∃ b, plain.peek 0xC000 = .byte b) ∧ plain.peek 0xFF10 = .draw ∧
    (∃ b u, plain.read 0xFF10 = .ok (b, u)) ∧ (0xFF10 ≤ (0xFF10#16).toNat ∧ (0xFF26#16).toNat ≤ 0xFF26) ∧
    0xFF30 ≤ (0xFF30#16).toNat ∧ (0xFF3F#16).toNat ≤ 0xFF3F :=
  ⟨⟨_, rfl⟩, rfl, ⟨_, _, rfl⟩, by decide, by decide⟩

theorem witness_DecodeOfEncode : (Instr.setR 7 .a).wellFormed = true ∧ (Instr.ldA16Sp 0xFFFF).wellFormed = true := by decide

theorem witness_EncodeOfDecode :
    decode [0xCB, 0xFF, 0x12] = .ok (.setR 7 .a, [0x12]) ∧ decode [0x08, 0xFF, 0xFF] = .ok (.ldA16Sp 0xFFFF, []) := ⟨rfl, rfl⟩

/-- A three-byte instruction about to be executed, one under the HALT bug, and one whose write is refused. -/
theorem witness_StepRunsDecoded :
    (let s := fixture [0xEA, 0x00, 0xC1] plainRegs 0xFFFE
     s.Live ∧ s.Executes ∧ decode [0xEA, 0x00, 0xC1] = .ok (.ldA16A 0xC100, []) ∧
       (∀ k, k < 3 → s.peek (s.fetchAddr k) = .byte ([0xEA, 0x00, 0xC1].getD k 0)) ∧
       ∃ t, exec (.ldA16A 0xC100) s = .next t ∧ t.fatal = none ∧ t.refused = none) ∧
    (let s := { fixture [0x06, 0x00] plainRegs 0xFFFE with haltBug := true }
     s.Live ∧ s.Executes ∧ decode [0x06, 0x06] = .ok (.ldRN .b 0x06, []) ∧
       ∀ k, k < 2 → s.peek (s.fetchAddr k) = .byte ([0x06, 0x06].getD k 0)) ∧
    ∃ t, exec (.ldhA8A 0x46) { plain with regs := { plainRegs with a := 0xE0 } } = .next t ∧ t.refused ≠ none := by
  refine ⟨⟨⟨rfl, rfl, rfl⟩, ⟨rfl, rfl, fun h => by cases h⟩, rfl, ?_, _, rfl, rfl, rfl⟩,
    ⟨⟨rfl, rfl, rfl⟩, ⟨rfl, rfl, fun h => by cases h⟩, rfl, ?_⟩, _, rfl, by decide⟩
  · intro k hk
    interval_cases k <;> rfl
  · intro k hk
    interval_cases k <;> rfl

/-- The lowest and the highest interrupt, their pushes taken, the first write refused, and the second. -/
theorem witness_DispatchTakesLowest :
    (∃ s : State, s.Live ∧ s.stopped = false ∧ s.halted = false ∧ s.ime = true ∧ s.ie.getLsbD 0 = true ∧
      s.ifl.getLsbD 0 = true ∧ ∃ u w, s.write (s.sp - 1) 0xC0 = .ok u ∧ u.write (s.sp - 2) 0x00 = .ok w) ∧
    (∃ s : State, s.Live ∧ s.stopped = false ∧ s.halted = false ∧ s.ime = true ∧ s.ie.getLsbD 4 = true ∧
      s.ifl.getLsbD 4 = true ∧ (∀ j, j < 4 → ¬(s.ie.getLsbD j = true ∧ s.ifl.getLsbD j = true)) ∧
      s.write (s.sp - 1) (hi8 0xE000) = .error .oamDmaSource) ∧
    ∃ s : State, s.sp = 0xFF48 ∧ ∃ u, s.write (s.sp - 1) (hi8 0x00E0) = .ok u ∧
      u.write (s.sp - 2) (lo8 0x00E0) = .error .oamDmaSource := by
  refine ⟨⟨{ plain with ime := true, ie := 0x1F, ifl := 0x1F }, ⟨rfl, rfl, rfl⟩, rfl, rfl, rfl, rfl, rfl, _, _, rfl, rfl⟩,
    ⟨{ plain with ime := true, ie := 0x1F, ifl := 0x10, sp := 0xFF47 }, ⟨rfl, rfl, rfl⟩, rfl, rfl, rfl, rfl, rfl, ?_, rfl⟩,
    { plain with sp := 0xFF48 }, rfl, _, rfl, rfl⟩
  intro j hj
  interval_cases j <;> decide

/-- Every refusal: its register, its value, its mode; the clock registers at both ends of their range and window. -/
theorem witness_RefusalsCommitNothingElse :
    cgbPlain.cfg.cgbMode = true ∧ (0x01#8).getLsbD 0 = true ∧ 0xE0 ≤ (0xE0#8).toNat ∧ 0xE0 ≤ (0xFF#8).toNat ∧
      clocked.cart.ctrl = .mbc3 true 1 8 ∧ (carted (.mbc3 true 1 0x0C) 0).cart.ctrl = .mbc3 true 1 0x0C ∧
      ({ LoadArgs.default with hw := .cgb }.rom.byte 0x143).getLsbD 7 = false ∧
      (∃ t, exec (.ldhA8A 0x46) { plain with regs := { plainRegs with a := 0xE0 } } = .next t ∧ t.refused ≠ none) ∧
      ∃ t, step { fixture [0xE0, 0x46] { plainRegs with a := 0xE0 } 0xFFFE with ime := true } = .next t ∧ t.refused ≠ none :=
  ⟨rfl, rfl, by decide, by decide, rfl, rfl, rfl, ⟨_, rfl, by decide⟩, _, rfl, by decide⟩

/-- EI about to run, and an instruction under a running delay, DI and another. -/
theorem witness_EiTakesEffectAfterNext :
    (let s := fixture [0xFB] plainRegs 0xFFFE
     s.Live ∧ s.Executes ∧ s.eiDelay.val = 0 ∧ s.peek s.pc = .byte 0xFB ∧ ∃ t, step s = .next t) ∧
    (let s := { fixture [0x00] plainRegs 0xFFFE with eiDelay := 1 }
     s.Live ∧ s.Executes ∧ s.eiDelay.val = 1 ∧ s.fetch = .ok (.nop, s) ∧
       ∃ t, step s = .next t ∧ t.fatal = none ∧ t.refused = none) ∧
    let s := { fixture [0xF3] plainRegs 0xFFFE with eiDelay := 1 }
    s.Live ∧ s.Executes ∧ s.eiDelay.val = 1 ∧ s.fetch = .ok (.di, s) ∧
      ∃ t, step s = .next t ∧ t.fatal = none ∧ t.refused = none :=
  ⟨⟨⟨rfl, rfl, rfl⟩, ⟨rfl, rfl, fun h => by cases h⟩, rfl, rfl, _, rfl⟩,
    ⟨⟨rfl, rfl, rfl⟩, ⟨rfl, rfl, fun h => by cases h⟩, rfl, rfl, _, rfl, rfl, rfl⟩,
    ⟨⟨rfl, rfl, rfl⟩, ⟨rfl, rfl, fun h => by cases h⟩, rfl, rfl, _, rfl, rfl, rfl⟩⟩

/-- A stopped step and a halted one under a running delay. -/
theorem witness_EiTakesEffectAfterNext_idle :
    (∃ s t, s.stopped = true ∧ s.eiDelay = 1 ∧ step s = .next t) ∧ ∃ s t, s.halted = true ∧ s.eiDelay = 1 ∧ step s = .next t :=
  ⟨⟨{ plain with stopped := true, eiDelay := 1 }, _, rfl, rfl, rfl⟩, { plain with halted := true, eiDelay := 1 }, _, rfl, rfl, rfl⟩

/-- IME written by a dispatch, by DI, by RETI, and by the delay of EI. -/
theorem witness_OnlyFourWritersOfIme :
    (hiddenAfter { plain with ime := true, ie := 1, ifl := 1 }).map (·.1) = some false ∧
      (hiddenAfter { fixture [0xF3] plainRegs 0xFFFE with ime := true }).map (·.1) = some false ∧
      (hiddenAfter ((fixture [0xD9] plainRegs 0xFFFC).poke 0xFFFC 0x00 |>.poke 0xFFFD 0xC0)).map (·.1) = some true ∧
      (hiddenAfter { plain with eiDelay := 1 }).map (·.1) = some true := by decide

/-- The conventional start meets the invariant, the display being off. -/
theorem plain_inv : plain.Inv := by
  refine ⟨⟨rfl, rfl, rfl, rfl, rfl, rfl, rfl⟩, ⟨rfl, rfl, rfl, rfl, rfl, rfl, rfl, fun _ _ h => by cases h⟩, ?_,
    ⟨rfl, ?_, fun _ => rfl⟩, rfl, by decide⟩
  · unfold Ppu.Scheduled
    decide
  · intro row h
    rw [List.eq_of_mem_replicate h]
    rfl

theorem witness_StepKeepsInv : plain.Inv ∧ ∃ t, step plain = .next t := ⟨plain_inv, _, rfl⟩

theorem witness_InvariantViolationNeverRaised : plain.Inv ∧ plain.fatal = none ∧ ∃ t, step plain = .next t :=
  ⟨plain_inv, rfl, _, rfl⟩

theorem witness_LoadedImageStays : (∃ t, step plain = .next t) ∧ plain.bootMapped = false := ⟨⟨_, rfl⟩, rfl⟩

/-- A running machine, a stopped one, a halted one, and one that takes an interrupt. -/
theorem witness_CyclesAddUp :
    (plain.Executes ∧ plain.fetch = .ok (.nop, plain) ∧
      ∃ t, step plain = .next t ∧ t.fatal = none ∧ t.refused = none ∧ t.cycles = 4) ∧
    (∃ t, step { plain with stopped := true } = .next t ∧ t.fatal = none ∧ t.refused = none ∧ t.cycles = 0) ∧
    (∃ t, step { plain with halted := true } = .next t ∧ t.fatal = none ∧ t.refused = none ∧ t.cycles = 4) ∧
    let s := { plain with ime := true, ie := 0x10, ifl := 0x10 }
    s.Pending ∧ ∃ t, step s = .next t ∧ t.fatal = none ∧ t.refused = none ∧ t.cycles = 20 :=
  ⟨⟨⟨rfl, rfl, fun h => by cases h⟩, rfl, _, rfl, rfl, rfl, rfl⟩, ⟨_, rfl, rfl, rfl, rfl⟩, ⟨_, rfl, rfl, rfl, rfl⟩,
    ⟨4, by decide, rfl, rfl⟩, _, rfl, rfl, rfl, rfl⟩

/-- The timer disabled, and enabled with TIMA about to reach its last value without overflowing. -/
theorem witness_TimerAdvanceRate :
    (withTimerOf 0x0008 0x10 0 1).timer.tac.getLsbD 2 = false ∧
      let t := (withTimerOf 15 0xFE 0 5).timer
      t.tac.getLsbD 2 = true ∧ t.tima.toNat + ((t.counter.toNat + 1) / 16 - t.counter.toNat / 16) = 255 := by decide

/-- The four taps, each one cycle before its edge. -/
theorem witness_TimerOverflowOncePerPeriod :
    ∀ x ∈ [((1023 : Word), (4 : BitVec 3)), (15, 5), (63, 6), (255, 7)],
      let t := (withTimerOf x.1 0xFF 0xFF x.2).timer
      t.tac.getLsbD 2 = true ∧ t.tima = 0xFF ∧ t.tma = 0xFF ∧ t.counter.toNat = 2 ^ (tapBit t.tac + 1) - 1 := by
  simp [withTimerOf, tapBit]

theorem witness_TimerRegisterWrites : (withTimerOf 0x0008 0x10 0 1).timer.tac.getLsbD 2 = false := by decide

/-- The start of a frame, and MODE3_LEN at both ends of its range. -/
theorem witness_FrameBudget :
    State.reset.ppu.on = true ∧ State.reset.ppu.ly = 0 ∧ State.reset.ppu.dot = 0 ∧ State.reset.ppu.mode = .oamScan ∧
      State.reset.cfg.mode3 = .constant 0 ∧ { State.reset.cfg with mode3 := .constant 117 }.mode3 = .constant 117 :=
  ⟨rfl, rfl, rfl, rfl, rfl, rfl⟩

/-- The display on at this place of the schedule. -/
def atDot (ly dot : Nat) (mode : PpuMode) : State :=
  { displayOn with ppu := { displayOn.ppu with ly := ly, dot := dot, mode := mode } }

/-- The last cycle of mode 2 of the last line drawn, the last cycle of mode 3, and the last cycles of lines 143 and 153. -/
theorem witness_PpuRequests :
    (let s := atDot 143 79 .oamScan
     s.ppu.Scheduled ∧ s.ppu.on = true ∧ s.ppu.ly < 144 ∧ s.ppu.dot = 79) ∧
    (let s := atDot 143 251 .transfer
     s.ppu.Scheduled ∧ s.ppu.on = true ∧ s.ppu.ly < 144 ∧ s.ppu.dot + 1 = 80 + s.ppu.mode3Len) ∧
    (let s := atDot 143 455 .hblank
     s.ppu.Scheduled ∧ s.ppu.on = true) ∧
    let s := atDot 153 455 .vblank
    s.ppu.Scheduled ∧ s.ppu.on = true := by
  unfold Ppu.Scheduled
  decide

/-- The display turned off, turned on, kept; off under the invariant; LYC met with the flag 0 and its select bit 1. -/
theorem witness_PpuRegisterWrites :
    (displayOn.ppu.lcdc.getLsbD 7 = true ∧ (0x00#8).getLsbD 7 = false) ∧
      (plain.ppu.lcdc.getLsbD 7 = false ∧ (0x80#8).getLsbD 7 = true) ∧
      displayOn.ppu.lcdc.getLsbD 7 = (0xFF#8).getLsbD 7 ∧ plain.Inv ∧
      let s := { displayOn with ppu := { displayOn.ppu with coinc := false, statSel := 8 } }
      s.ppu.ly = (0#8).toNat ∧ s.ppu.coinc = false ∧ s.ppu.statSel.getLsbD 3 = true :=
  ⟨⟨rfl, rfl⟩, ⟨rfl, rfl⟩, rfl, plain_inv, rfl, rfl, rfl⟩

/-- The cycle that draws the last row, a frame of the right shape, and a cycle that draws none. -/
theorem witness_RowDrawnAtModeZero :
    (let s := atDot 143 251 .transfer
     s.ppu.Scheduled ∧ s.ppu.on = true ∧ (s.ppu.ly < 144 ∧ s.ppu.dot + 1 = 80 + s.ppu.mode3Len) ∧ s.FrameShaped) ∧
    let s := atDot 153 455 .vblank
    s.ppu.Scheduled ∧ s.ppu.on = true ∧ ¬(s.ppu.ly < 144 ∧ s.ppu.dot + 1 = 80 + s.ppu.mode3Len) := by
  refine ⟨⟨?_, rfl, by decide, rfl, ?_, fun h => by cases h⟩, ?_, rfl, by decide⟩
  · unfold Ppu.Scheduled
    decide
  · intro row h
    rw [List.eq_of_mem_replicate h]
    rfl
  · unfold Ppu.Scheduled
    decide

/-- Sprites off; the window shown and covering the column at its last WX; and LCDC bit 0 off. -/
theorem witness_DmgBackgroundWindowPixel :
    (pictured 0 0).cgb = false ∧ (0x91#8).getLsbD 1 = false ∧ (0x91#8).getLsbD 0 = true ∧ (0x90#8).getLsbD 0 = false ∧
      let p : Ppu := { pictureRegs with lcdc := 0xB1, wy := 143, wx := 166 }
      p.lcdc.getLsbD 1 = false ∧ p.lcdc.getLsbD 5 = true ∧ p.wy.toNat ≤ 143 ∧ p.wx.toNat ≤ 166 ∧ p.wx.toNat ≤ 159 + 7 := by
  decide

/-- OAM with one sprite, at Y 16: on lines 0 to 7. -/
def oneSprite : Video := { pictured 0 0 with oam := Memory.ofBytes 0 ([16, 18, 1, 0] ++ List.replicate 156 0) }

/-- Sprites off; on, with fewer than ten on the sprite's first line and its last; X 0 and X 168. -/
theorem witness_SpriteSelection :
    ({ pictureRegs with lcdc := 0x91 } : Ppu).lcdc.getLsbD 1 = false ∧ pictureRegs.lcdc.getLsbD 1 = true ∧
      (oneSprite.lineSprites pictureRegs 0).length < 10 ∧ (oneSprite.lineSprites pictureRegs 7).length < 10 ∧
      (oneSprite.sprite 0).y.toNat ≤ 0 + 16 ∧ 7 + 16 < (oneSprite.sprite 0).y.toNat + 8 ∧
      ((0#8 = 0 ∨ 168 ≤ (0#8).toNat) ∧ 168 ≤ (168#8).toNat) ∧ (oneSprite.sprite 0).x = 18 ∧ 39 < 40 := by decide +kernel

/-- The ends of a sprite's rows, in both heights, and of its columns. No opaque sprite; in DMG mode a winner between a sprite of higher X before it and one of the same X after it; in CGB
mode a winner after a transparent one. -/
theorem witness_SpritePriority :
    (let o : Sprite := ⟨16, 17, 1, 0x08⟩
     (o.y.toNat ≤ 0 + 16 ∧ 7 + 16 < o.y.toNat + 8) ∧ (o.y.toNat ≤ 0 + 16 ∧ 15 + 16 < o.y.toNat + 16) ∧
       (o.x.toNat ≤ 9 + 8 ∧ 16 < o.x.toNat) ∧ o.attr.getLsbD 3 = true) ∧
    let v := pictured 0xFF 0
    let p := pictureRegs
    let clear : Sprite := ⟨16, 17, 1, 0⟩
    (∀ o ∈ [clear], ¬Opaque v p 10 0 o) ∧
      (v.cgb = false ∧ Opaque v p 10 0 ⟨16, 17, 0, 0⟩ ∧
        (∀ q ∈ [(⟨16, 18, 0, 0⟩ : Sprite)], Opaque v p 10 0 q → (17#8).toNat < q.x.toNat) ∧
        ∀ q ∈ [(⟨16, 17, 0, 0x80⟩ : Sprite)], Opaque v p 10 0 q → (17#8).toNat ≤ q.x.toNat) ∧
      let w : Video := { v with cgb := true }
      w.cgb = true ∧ Opaque w p 10 0 ⟨16, 18, 0, 0⟩ ∧ ∀ q ∈ [clear], ¬Opaque w p 10 0 q := by
  unfold Opaque
  decide

theorem witness_EchoAliasesWorkRam : (0xE000 ≤ (0xE000#16).toNat ∧ (0xE000#16).toNat ≤ 0xFDFF) ∧
    0xE000 ≤ (0xFDFF#16).toNat ∧ (0xFDFF#16).toNat ≤ 0xFDFF := by decide

theorem witness_RomWritesAreCommands : (0x0000#16).toNat ≤ 0x7FFF ∧ (0x7FFF#16).toNat ≤ 0x7FFF := by decide

/-- The controller, and both ends of each command range. -/
theorem witness_Mbc1Banking :
    (carted (.mbc1 true 1 0 false) 0x2000).cart.ctrl = .mbc1 true 1 0 false ∧ (carted ctrlMbc1 0).bootMapped = false ∧
      (0x1FFF#16).toNat < 0x2000 ∧ (0x2000 ≤ (0x2000#16).toNat ∧ (0x3FFF#16).toNat < 0x4000) ∧
      (0x4000 ≤ (0x4000#16).toNat ∧ (0x5FFF#16).toNat < 0x6000) ∧ 0x6000 ≤ (0x6000#16).toNat ∧ (0x7FFF#16).toNat < 0x8000 := by
  decide

/-- The other controllers, and the ends of the ranges they alone have. -/
theorem witness_OtherControllersBanking :
    plain.cart.ctrl = .romOnly ∧ plain.bootMapped = false ∧ (carted (.mbc2 true 1) 512).cart.ctrl = .mbc2 true 1 ∧
      (carted (.mbc3 true 1 3) 0).cart.ctrl = .mbc3 true 1 3 ∧
      (carted (.mbc5 true true 0 0) 0).cart.ctrl = .mbc5 true true 0 0 ∧
      ((0x3EFF#16).toNat < 0x4000 ∧ (0x3EFF#16).toNat / 256 % 2 = 0) ∧ (0x3FFF#16).toNat / 256 % 2 = 1 ∧
      (0x2FFF#16).toNat < 0x3000 ∧ 0x3000 ≤ (0x3000#16).toNat := by decide

/-- Each controller with its RAM enabled and disabled, absent and present; the values of RAMB at the ends of each clause;
the ends of the window. -/
theorem witness_ExternalRamAccess :
    (0xA000 ≤ (0xA000#16).toNat ∧ (0xBFFF#16).toNat ≤ 0xBFFF) ∧ plain.cart.ramLen = 0 ∧
      0x7FFF < (carted (.mbc1 true 1 3 true) 0x8000).cart.ramLen ∧ 511 < (carted (.mbc2 true 1) 512).cart.ramLen ∧
      (carted (.mbc1 true 1 3 true) 0x8000).cart.ctrl = .mbc1 true 1 3 true ∧
      (carted (.mbc1 false 1 3 true) 0x8000).cart.ctrl = .mbc1 false 1 3 true ∧
      (carted (.mbc2 true 1) 512).cart.ctrl = .mbc2 true 1 ∧ (carted (.mbc2 false 1) 512).cart.ctrl = .mbc2 false 1 ∧
      (carted (.mbc3 true 1 3) 0x8000).cart.ctrl = .mbc3 true 1 3 ∧
      (carted (.mbc3 false 1 8) 0x8000).cart.ctrl = .mbc3 false 1 8 ∧
      (clocked.cart.ctrl = .mbc3 true 1 8 ∧ (8#8).toNat ≤ 0x0C) ∧ (3#8).toNat ≤ 3 ∧ (3 < (7#8).toNat ∧ (7#8).toNat < 8) ∧ 0x0C < (0x0D#8).toNat ∧
      (carted (.mbc5 false true 0 15) 0x20000).cart.ctrl = .mbc5 false true 0 15 ∧
      (carted (.mbc5 false false 0 15) 0x20000).cart.ctrl = .mbc5 false false 0 15 := by decide

/-- The ends of the gap, unmapped addresses at the ends of their ranges, a CGB-only one in DMG mode, and CGB mode. -/
theorem witness_GapAndIoReads :
    (0xFEA0 ≤ (0xFEA0#16).toNat ∧ (0xFEFF#16).toNat ≤ 0xFEFF) ∧ (0xFF03#16).toNat - 0xFF00 = 0x03 ∧
      (0xFF0E#16).toNat - 0xFF00 ≤ 0x0E ∧ (0x27 ≤ (0xFF27#16).toNat - 0xFF00 ∧ 0x71 ≤ (0xFF7F#16).toNat - 0xFF00) ∧
      (0xFF7F#16).toNat ≤ 0xFF7F ∧ plain.cfg.cgbMode = false ∧ cgbPlain.cfg.cgbMode = true ∧
      (0xFF51 ≤ (0xFF51#16).toNat ∧ (0xFF54#16).toNat ≤ 0xFF54 ∧ (0xFF55#16).toNat ≤ 0xFF55) ∧
      ∃ u, plain.write 0xFF50 0xFF = .ok u :=
  ⟨by decide, by decide, by decide, by decide, by decide, rfl, rfl, by decide, _, rfl⟩

/-- The first page of ROM, and the last page of work RAM. -/
theorem witness_OamDmaCopiesPage :
    ((0x00#8).toNat ≤ 0xDF ∧ ∀ i, i < 160 → plain.peek (0x00#8 ++ BitVec.ofNat 8 i) = .byte 0) ∧
      (0xDF#8).toNat ≤ 0xDF ∧ ∀ i, i < 160 →
        { plain with wram := Memory.ofBytes 0x1F00 (List.replicate 160 7) }.peek (0xDF#8 ++ BitVec.ofNat 8 i) = .byte 7 := by
  decide +kernel

/-- Each policy, in mode 3 and in mode 2; the ends of both memories. -/
theorem witness_VideoLockPolicy :
    let locked (l : VideoLock) (m : PpuMode) : State := { atDot 0 0 m with cfg := { plain.cfg with videoLock := l } }
    (0x8000 ≤ (0x8000#16).toNat ∧ (0x9FFF#16).toNat ≤ 0x9FFF) ∧ (0xFE00 ≤ (0xFE00#16).toNat ∧ (0xFE9F#16).toNat ≤ 0xFE9F) ∧
      plain.ppu.lcdc.getLsbD 7 = false ∧ (locked .free .transfer).cfg.videoLock = .free ∧
      ((locked .locked .transfer).ppu.lcdc.getLsbD 7 = true ∧ (locked .locked .transfer).ppu.mode = .transfer ∧
        (locked .locked .transfer).cfg.videoLock = .locked) ∧
      (locked .unknown .oamScan).ppu.mode = .oamScan ∧ (locked .unknown .oamScan).cfg.videoLock = .unknown := by decide

theorem witness_CgbBankAndPalettePorts : { pictured 0 0 with cgb := true }.cgb = true ∧ cgbPlain.cfg.cgbMode = true ∧ (0x8000 ≤ (0x8000#16).toNat ∧ (0x9FFF#16).toNat ≤ 0x9FFF) ∧
    (0xC000 ≤ (0xC000#16).toNat ∧ (0xCFFF#16).toNat ≤ 0xCFFF) ∧ 0xD000 ≤ (0xD000#16).toNat ∧ (0xDFFF#16).toNat ≤ 0xDFFF := by
  decide

/-- A line that falls as a button is pressed, and none that does as it is let go. -/
theorem witness_JoypadLines :
    let held : Joypad := { sel := 0b10, pressed := { plain.joypad.pressed with right := true } }
    let free : Joypad := { held with pressed := plain.joypad.pressed }
    (free.lines.getLsbD 0 = true ∧ held.lines.getLsbD 0 = false) ∧ ∀ i, i < 4 → ¬(held.lines.getLsbD i = true ∧ free.lines.getLsbD i = false) := by
  decide

theorem witness_SerialTransferEnds : plain.serial.busy = false ∧ { plain.serial with busy := true }.busy = true := by decide

/-- The boot ROM mapped, at the ends of its ranges and beside them, and unmapped; a write there; BOOT's bit 0. -/
theorem witness_BootRomOverlay :
    let s := { cgbPlain with bootMapped := true }
    s.bootMapped = true ∧ (0xFF#16).toNat ≤ 0xFF ∧ (s.cfg.hw = .cgb ∧ 0x200 ≤ (0x200#16).toNat ∧ (0x8FF#16).toNat ≤ 0x8FF) ∧
      ((0x100#16).toNat ≤ 0x7FFF ∧ ¬((0x100#16).toNat ≤ 0xFF ∨ (s.cfg.hw = .cgb ∧ 0x200 ≤ (0x100#16).toNat ∧ (0x100#16).toNat ≤ 0x8FF))) ∧
      plain.bootMapped = false ∧ (∃ t, { s with bootMapped := false }.write 0x0000 0x0A = .ok t) ∧
      (0x01#8).getLsbD 0 = true ∧ (0xFE#8).getLsbD 0 = false :=
  ⟨rfl, by decide, ⟨rfl, by decide, by decide⟩, ⟨by decide, by decide⟩, rfl, ⟨_, rfl⟩, rfl, rfl⟩

/-- The images of an MBC5 with battery and rumble, with the CGB flag and without. -/
def imageOf (flag : Byte) : Image := { bytes := [(0x143, flag), (0x147, 0x1E), (0x148, 0), (0x149, 5)], len := 0x8000 }

/-- A load that fails its checks, one refused, and loads that pass: without a boot ROM, with one, with a start state. -/
theorem witness_ResetValues :
    let x : LoadArgs := { LoadArgs.default with rom := imageOf 0x80, saveRam := some [1, 2] }
    ¬{ x with rom := { x.rom with len := 0x14F } }.Checked ∧ x.Checked ∧
      { x with rom := imageOf 0x7F, hw := .cgb }.Checked ∧ (({ x with rom := imageOf 0x7F } : LoadArgs).rom.byte 0x143).getLsbD 7 = false ∧
      (∃ row ∈ typeTable, row.1 = x.rom.byte 0x147) ∧ ({ x with hw := .cgb }.rom.byte 0x143).getLsbD 7 = true ∧
      x.bootRom = none ∧ x.postBoot = none ∧ { x with postBoot := some plain }.postBoot = some plain ∧
      { x with bootRom := some [] }.bootRom ≠ none ∧
      plain.cfg.cgbMode = false ∧ cgbPlain.cfg.cgbMode = true := by
  unfold LoadArgs.Checked
  decide +kernel

end Sys2Proof.Tests
end

section
/-! PROOFS. IME and the delay of EI through a step (`10_state.md` R120, R121). Reads, writes and the shapes instructions
share leave both alone; DI, EI and RETI are the only instructions that do not. -/

namespace Sys2Proof.Machine

/-! ### What a step can be -/

/-- Reading bytes changes nothing but the draw counter. -/
theorem State.readBytes_draws (n : Nat) (a : Word) {s u : State} {bs : List Byte}
    (h : State.readBytes n a s = .ok (bs, u)) : u = { s with draws := u.draws } := by
  induction n generalizing a s bs with
  | zero => cases h; rfl
  | succ n ih =>
    unfold State.readBytes at h
    cases h1 : s.read a with
    | error e => rw [h1] at h; cases h
    | ok x =>
      rw [h1] at h
      change Except.bind (State.readBytes n (a + 1) x.2) _ = _ at h
      cases h2 : State.readBytes n (a + 1) x.2 with
      | error e => rw [h2] at h; cases h
      | ok y =>
        rw [h2] at h
        cases h
        rw [ih _ h2, State.read_ok (b := x.1) h1]

/-- Fetching changes nothing but the draw counter. -/
theorem State.fetch_draws {s u : State} {i : Instr} (h : s.fetch = .ok (i, u)) : u = { s with draws := u.draws } := by
  obtain ⟨op, s1, bs, h1, h2, -⟩ := State.fetch_ok h
  rw [State.readBytes_draws _ _ h2, State.read_ok h1]

/-- An outcome without the mark of a refusal is that of an effect that was not refused. -/
theorem State.conclude_unrefused {s t : State} {e : Eff State} (h : s.conclude e = .next t) (hr : t.refused = none) :
    e = .ok t := by
  cases e with
  | ok u => cases h; rfl
  | error u => cases h; cases hr

/-- What an effect leaves holds of its outcome, if that is not refused. -/
theorem Holds.conclude {P : State → Prop} {e : Eff State} (he : Holds P e) (s : State) {t : State}
    (hr : t.refused = none) (h : s.conclude e = .next t) : P t :=
  he _ (State.conclude_unrefused h hr)

/-- The CPU's part of a step that executes an instruction and raises no mark: fetch, execute, count down. -/
theorem State.executeOne_unmarked {s u : State} (h : s.executeOne exec = .next u) (hf : u.fatal = none)
    (hr : u.refused = none) :
    ∃ i v w, s.fetch = .ok (i, v) ∧ exec i v = .next w ∧ w.fatal = none ∧ w.refused = none ∧ u = w.countdown := by
  unfold State.executeOne at h
  cases hfetch : s.fetch with
  | error e => rw [hfetch] at h; cases h; cases hr
  | ok x =>
    obtain ⟨i, v⟩ := x
    simp only [hfetch] at h
    cases he : exec i v with
    | fault f => rw [he] at h; cases h
    | refused r => rw [he] at h; cases h
    | next w =>
      simp only [he, afterInstr, Host.Outcome.next.injEq] at h
      by_cases hm : (w.fatal.isSome || w.refused.isSome) = true
      · rw [if_pos hm] at h
        subst h
        simp [hf, hr] at hm
      · rw [if_neg hm] at h
        simp only [Bool.or_eq_true, not_or, Option.not_isSome_iff_eq_none] at hm
        exact ⟨i, v, w, rfl, he, hm.1, hm.2, h.symm⟩

/-- The whole step either commits a mark alone, or the CPU's part raised none and the devices advance. -/
theorem State.afterCpu_cases {s t : State} {o : Host.Outcome State Fault Refusal} (h : s.afterCpu o = .next t) :
    (∃ f r, t = { s with fatal := f, refused := r }) ∨
      ∃ u, o = .next u ∧ u.fatal = none ∧ u.refused = none ∧ t = u.elapse := by
  cases o with
  | fault f => cases h
  | refused r => cases h
  | next u =>
    simp only [State.afterCpu, Host.Outcome.next.injEq] at h
    by_cases hm : (u.fatal.isSome || u.refused.isSome) = true
    · rw [if_pos hm] at h
      exact .inl ⟨_, _, h.symm⟩
    · rw [if_neg hm] at h
      simp only [Bool.or_eq_true, not_or, Option.not_isSome_iff_eq_none] at hm
      exact .inr ⟨u, rfl, hm.1, hm.2, h.symm⟩

/-- Everything a step can be: a mark alone, a stopped step, a halted one, an interrupt taken, an instruction executed
(`47_system.md` R1300, `60_exceptions.md` R1760). -/
theorem step_cases {s t : State} (h : step s = .next t) :
    (∃ f r, t = { s with fatal := f, refused := r }) ∨
      (s.stopped = true ∧ t = s.stoppedStep.elapse) ∨
      (s.stopped = false ∧ s.halted = true ∧ t = s.haltedStep.elapse) ∨
      (s.stopped = false ∧ s.halted = false ∧ s.ime = true ∧ s.Pending ∧ ∃ u, s.dispatch = .ok u ∧ t = u.elapse) ∨
      (s.Executes ∧
        ∃ i v w, s.fetch = .ok (i, v) ∧ exec i v = .next w ∧ w.fatal = none ∧ w.refused = none ∧
          t = w.countdown.elapse) := by
  unfold step State.stepWith at h
  cases hb : s.blocked with
  | some o =>
    simp only [hb] at h
    subst h
    unfold State.blocked at hb
    split at hb <;> cases hb
    exact .inl ⟨_, _, rfl⟩
  | none =>
    simp only [hb] at h
    rcases State.afterCpu_cases h with hm | ⟨u, hu, hf, hr, rfl⟩
    · exact .inl hm
    refine .inr ?_
    cases hstop : s.stopped with
    | true =>
      simp only [State.idle, hstop, if_true, Host.Outcome.next.injEq] at hu
      exact .inl ⟨rfl, hu ▸ rfl⟩
    | false =>
      cases hhalt : s.halted with
      | true =>
        simp only [State.idle, hstop, hhalt, if_true, Bool.false_eq_true, if_false, Host.Outcome.next.injEq] at hu
        exact .inr (.inl ⟨rfl, rfl, hu ▸ rfl⟩)
      | false =>
        by_cases htake : (s.ime && s.pending != 0) = true
        · simp only [State.idle, hstop, hhalt, htake, if_true, Bool.false_eq_true, if_false] at hu
          simp only [Bool.and_eq_true] at htake
          exact .inr (.inr (.inl ⟨rfl, rfl, htake.1, s.pending_iff.1 htake.2, u, State.conclude_unrefused hu hr, rfl⟩))
        · simp only [State.idle, hstop, hhalt, htake, Bool.false_eq_true, if_false] at hu
          obtain ⟨i, v, w, hfetch, he, hwf, hwr, rfl⟩ := State.executeOne_unmarked hu hf hr
          refine .inr (.inr (.inr ⟨⟨hstop, hhalt, fun hi => ?_⟩, i, v, w, hfetch, he, hwf, hwr, rfl⟩))
          simpa [hi] using htake

/-- The devices leave IME alone. -/
@[simp] theorem State.elapse_ime (s : State) : s.elapse.ime = s.ime := by
  unfold State.elapse State.serialAdvance State.serialEvent
  split_ifs <;> rfl

/-! ### IME and the delay of EI under the operations instructions are built from -/

/-- IME is `m` and the count of EI's delay is `d`. -/
def ImeIs (m : Bool) (d : Fin 3) (s : State) : Prop := s.ime = m ∧ s.eiDelay = d

variable {m : Bool} {d : Fin 3} {s t : State}

/-- An effect that leaves both alone. -/
theorem ImeIs.ok (hs : ImeIs m d s) (him : t.ime = s.ime := by rfl) (hd : t.eiDelay = s.eiDelay := by rfl) :
    Holds (ImeIs m d) (.ok t) :=
  holds_ok ⟨him.trans hs.1, hd.trans hs.2⟩

theorem ImeIs.read_bind {P : State → Prop} {a : Word} {f : Byte × State → Eff State} (hs : ImeIs m d s)
    (hf : ∀ b u, ImeIs m d u → Holds P (f (b, u))) : Holds P (s.read a >>= f) := by
  intro t h
  cases hr : s.read a with
  | error e => rw [hr] at h; cases h
  | ok x =>
    rw [hr] at h
    refine hf x.1 x.2 ?_ t h
    rw [State.read_ok (b := x.1) hr]
    exact hs

theorem ImeIs.of_write {u : State} {a : Word} {v : Byte} (hs : ImeIs m d s) (h : s.write a v = .ok u) : ImeIs m d u := by
  rw [State.write_cpu h]
  exact hs

theorem ImeIs.write_bind {a : Word} {v : Byte} {f : State → Eff State} (hs : ImeIs m d s)
    (hf : ∀ u, ImeIs m d u → Holds (ImeIs m d) (f u)) : Holds (ImeIs m d) (s.write a v >>= f) :=
  holds_bind (fun _ h => hs.of_write h) hf

theorem ImeIs.push16 (v : Word) (hs : ImeIs m d s) : Holds (ImeIs m d) (s.push16 v) :=
  ImeIs.write_bind (s := { s with sp := s.sp - 1 }) hs fun u hu _ h =>
    ImeIs.of_write (s := { u with sp := u.sp - 1 }) hu h

theorem ImeIs.pop16_bind {P : State → Prop} {f : Word × State → Eff State} (hs : ImeIs m d s)
    (hf : ∀ v u, ImeIs m d u → Holds P (f (v, u))) : Holds P (s.pop16 >>= f) := by
  intro t h
  rw [State.pop16_eq] at h
  cases h1 : s.read s.sp with
  | error e => rw [h1] at h; cases h
  | ok x =>
    obtain ⟨lo, u⟩ := x
    simp only [h1] at h
    cases h2 : u.read (s.sp + 1) with
    | error e => rw [h2] at h; cases h
    | ok y =>
      obtain ⟨hi, w⟩ := y
      rw [h2] at h
      refine hf _ _ ?_ t h
      show ImeIs m d { w with sp := s.sp + 2 }
      rw [State.read_ok h2, State.read_ok h1]
      exact hs

/-! ### The shared shapes -/

theorem ImeIs.aluHl (op : AluOp) (hs : ImeIs m d s) : Holds (ImeIs m d) (s.aluHl op) :=
  ImeIs.read_bind (s := s.advance 1) hs fun _ _ hu => hu.ok

theorem ImeIs.modifyHl (len cycles : Nat) (f : Byte → Flags → Byte) (g : Byte → Flags → Flags) (hs : ImeIs m d s) :
    Holds (ImeIs m d) (s.modifyHl len cycles f g) :=
  ImeIs.read_bind (s := s.advance len) hs fun _ _ hu => hu.write_bind fun _ hw => hw.ok

theorem ImeIs.loadA (len cycles : Nat) (a : Word) (hs : ImeIs m d s) : Holds (ImeIs m d) (s.loadA len cycles a) :=
  ImeIs.read_bind (s := s.advance len) hs fun _ _ hu => hu.ok

theorem ImeIs.storeByte (len cycles : Nat) (a : Word) (v : Byte) (hs : ImeIs m d s) :
    Holds (ImeIs m d) (s.storeByte len cycles a v) :=
  ImeIs.write_bind (s := s.advance len) hs fun _ hu => hu.ok

theorem ImeIs.jumpIf (len : Nat) (taken : Bool) (target : Word) (yes no : Nat) (hs : ImeIs m d s) :
    Holds (ImeIs m d) (s.jumpIf len taken target yes no) := by
  cases taken <;> exact hs.ok

theorem ImeIs.callIf (len : Nat) (taken : Bool) (target : Word) (yes no : Nat) (hs : ImeIs m d s) :
    Holds (ImeIs m d) (s.callIf len taken target yes no) := by
  cases taken
  · exact hs.ok
  · exact holds_bind (ImeIs.push16 (s := s.advance len) _ hs) fun _ hu => hu.ok

theorem ImeIs.returnIf (taken : Bool) (yes no : Nat) (hs : ImeIs m d s) :
    Holds (ImeIs m d) (s.returnIf taken yes no) := by
  cases taken
  · exact hs.ok
  · exact ImeIs.pop16_bind (s := s.advance 1) hs fun _ _ hu => hu.ok

@[simp] theorem State.setPair_ime (s : State) (p : Reg16) (v : Word) : (s.setPair p v).ime = s.ime := by
  cases p <;> rfl

@[simp] theorem State.setPair_eiDelay (s : State) (p : Reg16) (v : Word) : (s.setPair p v).eiDelay = s.eiDelay := by
  cases p <;> rfl

@[simp] theorem State.setStkPair_ime (s : State) (q : Reg16Stk) (v : Word) : (s.setStkPair q v).ime = s.ime := by
  cases q <;> rfl

@[simp] theorem State.setStkPair_eiDelay (s : State) (q : Reg16Stk) (v : Word) :
    (s.setStkPair q v).eiDelay = s.eiDelay := by
  cases q <;> rfl

theorem ImeIs.runSecondary (op2 : Byte) (hs : ImeIs m d s) : Holds (ImeIs m d) (s.runSecondary op2) := by
  unfold State.runSecondary
  split
  case h_2 => exact hs.modifyHl _ _ _ _
  case h_4 => exact ImeIs.read_bind (s := s.advance 2) hs fun _ _ hu => hu.ok
  case h_6 | h_8 => exact hs.modifyHl _ _ _ _
  all_goals exact hs.ok

/-! ### Interrupts and instructions -/

/-- Taking an interrupt clears IME and the count of EI's delay (`60_exceptions.md` R1411). -/
theorem State.dispatch_ime (s : State) : Holds (ImeIs false 0) s.dispatch :=
  holds_bind (ImeIs.push16 _ ⟨rfl, rfl⟩) fun _ hu => holds_ok hu

/-- The return from a handler sets IME (`45_control.md` R1119). -/
theorem ImeIs.returnFromInterrupt (hs : ImeIs m d s) : Holds (ImeIs true d) s.returnFromInterrupt :=
  hs.pop16_bind fun _ _ hu => holds_ok ⟨rfl, hu.2⟩

/-- What an instruction leaves of IME (`10_state.md` R120): DI clears it, RETI sets it. -/
def imeAfter (m : Bool) : Instr → Bool
  | .di => false
  | .reti => true
  | _ => m

/-- What an instruction leaves of the count of EI's delay (`10_state.md` R121): DI cancels it, EI starts it. -/
def delayAfter (d : Fin 3) : Instr → Fin 3
  | .di => 0
  | .ei => if d = 0 then 2 else d
  | _ => d

theorem imeAfter_of_ne (m : Bool) {i : Instr} (hdi : i ≠ .di) (hreti : i ≠ .reti) : imeAfter m i = m := by
  unfold imeAfter
  split
  · exact absurd rfl hdi
  · exact absurd rfl hreti
  · rfl

/-- The delay runs out after an instruction other than DI if it was about to before it. -/
theorem delayAfter_eq_one (d : Fin 3) {i : Instr} (hdi : i ≠ .di) : (delayAfter d i).val = 1 ↔ d.val = 1 := by
  unfold delayAfter
  split
  · exact absurd rfl hdi
  · by_cases h : d = 0 <;> simp [h]
  · rfl

/-- IME and the count of EI's delay after an instruction that is not refused. -/
theorem exec_ime {i : Instr} (h : exec i s = .next t) (hr : t.refused = none) :
    ImeIs (imeAfter s.ime i) (delayAfter s.eiDelay i) t := by
  have hs : ImeIs s.ime s.eiDelay s := ⟨rfl, rfl⟩
  cases i
  case di | ei => cases h; exact ⟨rfl, rfl⟩
  case reti =>
    exact (holds_bind (ImeIs.returnFromInterrupt (s := s.advance 1) hs) fun _ hu => hu.ok).conclude s hr h
  case addAHl | adcAHl | subHl | sbcAHl | andHl | xorHl | orHl | cpHl => exact (hs.aluHl _).conclude s hr h
  case incHl | decHl | resHl | setHl | rlcHl | rrcHl | rlHl | rrHl | slaHl | sraHl | swapHl | srlHl =>
    exact (hs.modifyHl _ _ _ _).conclude s hr h
  case ldABc | ldADe | ldAA16 | ldhAA8 | ldhAC => exact (hs.loadA _ _ _).conclude s hr h
  case ldAHli | ldAHld => exact (holds_bind (hs.loadA _ _ _) fun _ hu => hu.ok).conclude s hr h
  case ldRHl | bitHl => exact (ImeIs.read_bind (s := s.advance _) hs fun _ _ hu => hu.ok).conclude s hr h
  case ldHlR | ldHlN | ldBcA | ldDeA | ldA16A | ldhA8A | ldhCA => exact (hs.storeByte _ _ _ _).conclude s hr h
  case ldHliA | ldHldA => exact (holds_bind (hs.storeByte _ _ _ _) fun _ hu => hu.ok).conclude s hr h
  case ldA16Sp =>
    exact (ImeIs.write_bind (s := s.advance 3) hs fun _ hu => hu.write_bind fun _ hw => hw.ok).conclude s hr h
  case incRr | decRr | ldRrN => exact (hs.ok (by simp) (by simp)).conclude s hr h
  case jp | jpCc | jpHl | jr | jrCc => exact (hs.jumpIf _ _ _ _ _).conclude s hr h
  case call | callCc | rst => exact (hs.callIf _ _ _ _ _).conclude s hr h
  case ret | retCc => exact (hs.returnIf _ _ _).conclude s hr h
  case push => exact (holds_bind (ImeIs.push16 (s := s.advance 1) _ hs) fun _ hu => hu.ok).conclude s hr h
  case pop =>
    exact (ImeIs.pop16_bind (s := s.advance 1) hs fun _ _ hu => hu.ok (by simp) (by simp)).conclude s hr h
  case halt =>
    refine (hs.ok ?_ ?_).conclude s hr h
    · split <;> rfl
    · split <;> rfl
  case prefixCb => exact (hs.read_bind fun op2 _ hu => hu.runSecondary op2).conclude s hr h
  case illegalD3 | illegalDB | illegalDD | illegalE3 | illegalE4 | illegalEB | illegalEC | illegalED | illegalF4
      | illegalFC | illegalFD =>
    cases h
    exact hs
  all_goals exact hs.ok.conclude s hr h

/-- IME after the count of EI's delay. -/
theorem State.countdown_ime (s : State) : s.countdown.ime = if s.eiDelay.val = 1 then true else s.ime := by
  rw [State.countdown_eq]
  rfl

/-- Settles O32: of the kinds of step, only a taken interrupt and an executed instruction touch IME, and of the
instructions only DI, RETI, and one that ends EI's delay. -/
theorem onlyFourWritersOfIme : Obligations.OnlyFourWritersOfIme := by
  intro s t h hne
  rcases step_cases h with ⟨f, r, rfl⟩ | ⟨-, rfl⟩ | ⟨-, -, rfl⟩ | ⟨hstop, hhalt, hime, hpend, u, hu, rfl⟩ |
    ⟨⟨hstop, hhalt, -⟩, i, v, w, hfetch, he, -, hwr, rfl⟩
  · exact absurd rfl hne
  · exact absurd (State.elapse_ime _) hne
  · exact absurd (State.elapse_ime _) hne
  · refine ⟨hstop, hhalt, .inl ⟨hime, hpend, ?_⟩⟩
    rw [State.elapse_ime]
    exact (s.dispatch_ime u hu).1
  · refine ⟨hstop, hhalt, .inr ⟨i, v, hfetch, ?_⟩⟩
    obtain ⟨him, hd⟩ := exec_ime he hwr
    have hvi : v.ime = s.ime := by rw [State.fetch_draws hfetch]
    have hvd : v.eiDelay = s.eiDelay := by rw [State.fetch_draws hfetch]
    rw [State.elapse_ime, State.countdown_ime, him, hd, hvi, hvd] at hne ⊢
    by_cases hdi : i = .di
    · subst hdi
      exact .inl ⟨rfl, rfl⟩
    by_cases hreti : i = .reti
    · subst hreti
      exact .inr (.inl ⟨rfl, ite_self true⟩)
    rw [imeAfter_of_ne _ hdi hreti] at hne
    simp only [delayAfter_eq_one _ hdi] at hne ⊢
    by_cases hdelay : s.eiDelay.val = 1
    · exact .inr (.inr ⟨hdelay, if_pos hdelay⟩)
    · exact absurd (if_neg hdelay) hne

end Sys2Proof.Machine
end

section
/-! PROOFS. The CGB bank registers and palette ports on the bus (`10_state.md` R173-R182), and a CGB background or window
pixel with its color (`60_exceptions.md` R1640, R1641). -/

namespace Sys2Proof.Machine

/-! ### Registers on the bus -/

/-- An address of the I/O window reaches the register there. -/
theorem State.target_io (s : State) {a : Word} {n : Nat} {r : IoReg} (ha : a.toNat = 0xFF00 + n) (hn : n ≤ 0x7F)
    (hr : ioRegAt s.cfg.cgbMode n = some r) : s.target a = .io r := by
  unfold State.target
  simp only [ha, Nat.add_sub_cancel_left, hr]
  repeat rw [if_neg (by omega)]
  rw [if_pos (by omega)]

/-- A read of an I/O register. -/
theorem State.peek_io {s : State} {a : Word} {r : IoReg} (h : s.target a = .io r) : s.peek a = s.readIo r := by
  rw [State.peek, h]
  rfl

/-- A write of an I/O register other than DMA. -/
theorem State.write_io {s : State} {a : Word} {r : IoReg} (v : Byte) (hr : r ≠ .dma) (h : s.target a = .io r) :
    s.write a v = s.writeIo r v := by
  rw [State.write, h]
  cases r
  case dma => exact absurd rfl hr
  all_goals rfl

/-- The CGB-only registers that the claims of `10_state.md` R173-R182 speak of, at their addresses. -/
theorem State.target_cgbIo {s : State} (h : s.cfg.cgbMode = true) :
    s.target 0xFF4F = .io .vbk ∧ s.target 0xFF70 = .io .svbk ∧ s.target 0xFF68 = .io .bcps ∧
      s.target 0xFF69 = .io .bcpd ∧ s.target 0xFF6A = .io .ocps ∧ s.target 0xFF6B = .io .ocpd := by
  have hreg {a : Word} {r : IoReg} (n : Nat) (ha : a.toNat = 0xFF00 + n) (hn : n ≤ 0x7F) (hr : ioRegAt true n = some r) :
      s.target a = .io r := s.target_io ha hn (h ▸ hr)
  exact ⟨hreg 0x4F rfl (by decide) rfl, hreg 0x70 rfl (by decide) rfl, hreg 0x68 rfl (by decide) rfl,
    hreg 0x69 rfl (by decide) rfl, hreg 0x6A rfl (by decide) rfl, hreg 0x6B rfl (by decide) rfl⟩

/-- VRAM on the bus: the bank VBK selects (`10_state.md` R173). -/
theorem State.target_vram_cgb {s : State} {a : Word} (h : s.cfg.cgbMode = true) (hlo : 0x8000 ≤ a.toNat)
    (hhi : a.toNat ≤ 0x9FFF) : s.target a = .vram (s.cgb.vbk.toNat * 0x2000 + (a.toNat - 0x8000)) := by
  unfold State.target State.vramBank
  simp only [h, if_true]
  rw [if_neg (by omega), if_pos hhi]

/-- Work RAM on the bus. -/
theorem State.target_wram (s : State) {a : Word} (hlo : 0xC000 ≤ a.toNat) (hhi : a.toNat ≤ 0xDFFF) :
    s.target a = .wram (s.wramOffset a.toNat) := by
  unfold State.target
  dsimp only
  rw [if_neg (by omega), if_neg (by omega), if_neg (by omega), if_pos hhi]

/-- The bank at 0xD000 in CGB mode: SVBK, 0 selecting bank 1 (`10_state.md` R182). -/
theorem State.wramBank_cgb {s : State} (h : s.cfg.cgbMode = true) :
    s.wramBank = if s.cgb.svbk.toNat = 0 then 1 else s.cgb.svbk.toNat := by
  rw [State.wramBank, if_pos h]
  split <;> omega

/-! ### Register values as numbers -/

/-- What VBK reads: bits 7-1 are 1 (`10_state.md` R173). -/
theorem vbk_read (b : BitVec 1) : 0b1111111#7 ++ b = BitVec.ofNat 8 (0xFE + b.toNat) := by
  revert b
  decide

/-- What a palette index register reads: bit 6 is 1 (`10_state.md` R177, R179). -/
theorem PalIndex.read_eq (i : PalIndex) :
    i.read = BitVec.ofNat 8 (0x40 + 128 * i.auto.toNat + i.index.toNat) := by
  have hread : ∀ (auto : Bool) (index : BitVec 6),
      BitVec.ofBool auto ++ 1#1 ++ index = BitVec.ofNat 8 (0x40 + 128 * auto.toNat + index.toNat) := by decide
  exact hread i.auto i.index

/-- The index after a data write (`10_state.md` R178, R180). -/
theorem PalIndex.next_eq (i : PalIndex) :
    i.next = { i with index := if i.auto then BitVec.ofNat 6 (i.index.toNat + 1) else i.index } := by
  have hinc : i.index + 1 = BitVec.ofNat 6 (i.index.toNat + 1) := by
    rw [BitVec.ofNat_add, BitVec.ofNat_toNat, BitVec.setWidth_eq]
    rfl
  rw [PalIndex.next, hinc]
  split <;> rfl

/-! ### A CGB background or window pixel -/

/-- A pixel of the plane a tile map shows, in CGB mode (`60_exceptions.md` R1640). -/
theorem Video.mapPixel_cgb {v : Video} (h : v.cgb = true) (lcdc : Byte) (map px py : Nat) :
    let cell := map + 32 * (py / 8) + px / 8
    let n := v.vramByte cell
    let attr := v.vramByte (0x2000 + cell)
    let tile := if lcdc.getLsbD 4 then 16 * n.toNat else if n.toNat < 128 then 0x1000 + 16 * n.toNat else 16 * n.toNat
    let row := if attr.getLsbD 6 then 7 - py % 8 else py % 8
    let col := if attr.getLsbD 5 then 7 - px % 8 else px % 8
    (v.mapPixel lcdc map px py).attr = attr ∧
      (v.mapPixel lcdc map px py).index.toNat = tileIndex v ((if attr.getLsbD 3 then 0x2000 else 0) + tile) row col := by
  intro cell n attr tile row col
  have hpixel : v.mapPixel lcdc map px py =
      { index := v.tileColor (if attr.getLsbD 3 then 1 else 0) (bgTileOffset lcdc n) row col, attr := attr } := by
    simp only [Video.mapPixel, h, if_true]
    rfl
  rw [hpixel]
  refine ⟨rfl, ?_⟩
  rw [Video.tileColor_toNat, bgTileOffset_eq]
  cases attr.getLsbD 3 <;> rfl

/-- Whether the window supplies the pixel at (x, y), in CGB mode (`60_exceptions.md` R1623, R1630). -/
theorem Video.windowShown_cgb {v : Video} (h : v.cgb = true) (p : Ppu) (x y : Nat) :
    (v.windowShown p y && decide (p.wx.toNat ≤ x + 7)) = true ↔
      p.lcdc.getLsbD 5 = true ∧ p.wy.toNat ≤ y ∧ p.wx.toNat ≤ 166 ∧ p.wx.toNat ≤ x + 7 := by
  simp [Video.windowShown, h, and_assoc]

/-- The window's map and its own line, or the background's and the scrolled position (`60_exceptions.md` R1622, R1623). -/
theorem Video.bgPixel_cgb {v : Video} (h : v.cgb = true) (p : Ppu) (x y : Nat) :
    let window := p.lcdc.getLsbD 5 = true ∧ p.wy.toNat ≤ y ∧ p.wx.toNat ≤ 166 ∧ p.wx.toNat ≤ x + 7
    v.bgPixel p x y =
      v.mapPixel p.lcdc (if p.lcdc.getLsbD (if window then 6 else 3) then 0x1C00 else 0x1800)
        (if window then x + 7 - p.wx.toNat else (p.scx.toNat + x) % 256)
        (if window then p.winLine else (p.scy.toNat + y) % 256) := by
  intro window
  have hshown : _ ↔ window := Video.windowShown_cgb h p x y
  rw [Video.bgPixel, if_neg (by simp [h])]
  by_cases hw : window
  · simp only [if_pos hw, if_pos (hshown.2 hw)]
    rfl
  · simp only [if_neg hw, if_neg (mt hshown.1 hw)]
    rfl

/-- The color of a background or window pixel, in CGB mode (`60_exceptions.md` R1641). -/
theorem Video.bgColor_cgb {v : Video} (h : v.cgb = true) (p : Ppu) (b : BgPixel) :
    (v.bgColor p b).toNat = paletteEntry (Memory.get v.bgPal (Config.initMem .bgPal)) (b.attr.toNat % 8) b.index.toNat := by
  rw [Video.bgColor, if_pos h, paletteColor_toNat]
  rfl

/-- Settles O56: the pixel is one of the window's map or the background's, and each port is its register on the bus. -/
theorem cgbBankAndPalettePorts : Obligations.CgbBankAndPalettePorts := by
  refine ⟨?_, ?_⟩
  · intro v p x y h window px py cell n attr tile row col b
    have hb : b = v.mapPixel p.lcdc (if p.lcdc.getLsbD (if window then 6 else 3) then 0x1C00 else 0x1800) px py :=
      Video.bgPixel_cgb h p x y
    obtain ⟨hattr, hindex⟩ : b.attr = attr ∧ b.index.toNat = _ := hb ▸ Video.mapPixel_cgb h p.lcdc _ px py
    exact ⟨hattr, hindex, hattr ▸ Video.bgColor_cgb h p b⟩
  · intro s a v h
    -- The low bits a port stores, `v.extractLsb' 0 n`, are `BitVec.ofNat n v.toNat` by definition.
    obtain ⟨hvbk, hsvbk, hbcps, hbcpd, hocps, hocpd⟩ := State.target_cgbIo h
    refine ⟨?_, ?_, State.target_vram_cgb h, ?_, ?_, ?_, ?_, ?_, ?_, ?_, ?_, ?_, ?_, ?_⟩
    · exact State.write_io v (by decide) hvbk
    · rw [State.peek_io hvbk, State.readIo, vbk_read]
    · exact State.write_io v (by decide) hsvbk
    · intro hlo hhi
      rw [s.target_wram hlo (by omega), State.wramOffset, if_pos (by omega)]
    · intro hlo hhi
      rw [s.target_wram (by omega) hhi, State.wramOffset, if_neg (by omega), State.wramBank_cgb h]
    · exact State.write_io v (by decide) hbcps
    · rw [State.peek_io hbcps, State.readIo, PalIndex.read_eq]
    · rw [State.read, State.peek_io hbcpd]
      rfl
    · exact State.write_io v (by decide) hocps
    · rw [State.peek_io hocps, State.readIo, PalIndex.read_eq]
    · rw [State.read, State.peek_io hocpd]
      rfl
    · rw [State.write_io v (by decide) hbcpd, State.writeIo, PalIndex.next_eq]
    · rw [State.write_io v (by decide) hocpd, State.writeIo, PalIndex.next_eq]

end Sys2Proof.Machine
end

section
/-! PROOFS. The memory map as the claims write it (`20_memory.md`): which part of the bus an address reaches, the
controllers' commands and banks as numbers, external RAM, the I/O registers' values, the boot ROM overlay. -/

namespace Sys2Proof.Machine

/-! ### Bit fields as numbers -/

/-- A field above another one, as a number. -/
theorem append_eq_ofNat {m n : Nat} (x : BitVec m) (y : BitVec n) :
    x ++ y = BitVec.ofNat (m + n) (2 ^ n * x.toNat + y.toNat) := by
  have hnum : 2 ^ n * x.toNat + y.toNat = (x ++ y).toNat := by
    rw [BitVec.toNat_append, Nat.shiftLeft_eq, Nat.mul_comm x.toNat, Nat.two_pow_add_eq_or_of_lt y.isLt]
  rw [hnum, BitVec.ofNat_toNat, BitVec.setWidth_eq]

/-- A field with its low bit at `lo`, as a number. -/
theorem extractLsb'_eq_ofNat {w : Nat} (v : BitVec w) (lo n : Nat) :
    v.extractLsb' lo n = BitVec.ofNat n (v.toNat / 2 ^ lo) := by
  rw [← Nat.shiftRight_eq_div_pow]
  rfl

/-- The number of the low bits. -/
theorem ofNat_mod_two_pow (w t : Nat) : BitVec.ofNat w (t % 2 ^ w) = BitVec.ofNat w t :=
  BitVec.eq_of_toNat_eq (by simp)

/-- RAM is enabled by 0xA in the low four bits (`20_memory.md` R421, R431, R441). -/
theorem ramEnable_eq (v : Byte) : (v.extractLsb' 0 4 == 0xA) = decide (v.toNat % 16 = 10) := by
  rw [Bool.eq_iff_iff, beq_iff_eq, decide_eq_true_eq, ← BitVec.toNat_inj]
  rfl

/-- A bank latch that turns 0 into 1, as a number (`20_memory.md` R421, R431, R441). -/
theorem atLeastOne_eq (v : Byte) (w : Nat) :
    atLeastOne (v.extractLsb' 0 w) = BitVec.ofNat w (if v.toNat % 2 ^ w = 0 then 1 else v.toNat % 2 ^ w) := by
  have hzero : v.extractLsb' 0 w = 0 ↔ v.toNat % 2 ^ w = 0 := by
    rw [← BitVec.toNat_inj]
    rfl
  unfold atLeastOne
  by_cases h : v.toNat % 2 ^ w = 0
  · rw [if_pos (hzero.2 h), if_pos h]
    rfl
  · rw [if_neg (mt hzero.1 h), if_neg h, ofNat_mod_two_pow]
    rfl

/-! ### The regions of the address space (`20_memory.md` R310, R311) -/

/-- The boot ROM's range (`20_memory.md` R320). -/
theorem bootRange_iff (hw : Hw) (n : Nat) :
    bootRange hw n = true ↔ n ≤ 0xFF ∨ (hw = .cgb ∧ 0x200 ≤ n ∧ n ≤ 0x8FF) := by
  simp [bootRange, and_assoc]

/-- Where the boot ROM does not lie, the ROM range reaches the ROM. -/
theorem State.target_rom {s : State} {a : Word} (h : a.toNat ≤ 0x7FFF)
    (hboot : s.bootMapped = false ∨ bootRange s.cfg.hw a.toNat = false) :
    s.target a = .rom (s.cart.romIndex a.toNat) := by
  unfold State.target
  dsimp only
  rw [if_pos h, if_neg]
  rcases hboot with hb | hb <;> simp [hb]

/-- Where the boot ROM lies, the ROM range reaches it. -/
theorem State.target_boot {s : State} {a : Word} (h : a.toNat ≤ 0x7FFF) (hmap : s.bootMapped = true)
    (hrange : bootRange s.cfg.hw a.toNat = true) : s.target a = .boot a.toNat := by
  unfold State.target
  dsimp only
  rw [if_pos h, if_pos (by simp [hmap, hrange])]

/-- The external RAM window reaches what the controller says. -/
theorem State.target_extWindow (s : State) {a : Word} (hlo : 0xA000 ≤ a.toNat) (hhi : a.toNat ≤ 0xBFFF) :
    s.target a = .ext (s.cart.extTarget (a.toNat - 0xA000)) := by
  unfold State.target
  dsimp only
  rw [if_neg (by omega), if_neg (by omega), if_pos hhi]

/-- Echo RAM reaches the work RAM 0x2000 below (`20_memory.md` R316). -/
theorem State.target_echo (s : State) {a : Word} (hlo : 0xE000 ≤ a.toNat) (hhi : a.toNat ≤ 0xFDFF) :
    s.target a = .wram (s.wramOffset (a.toNat - 0x2000)) := by
  unfold State.target
  dsimp only
  rw [if_neg (by omega), if_neg (by omega), if_neg (by omega), if_neg (by omega), if_pos hhi]

/-- The unusable gap (`20_memory.md` R318). -/
theorem State.target_gap (s : State) {a : Word} (hlo : 0xFEA0 ≤ a.toNat) (hhi : a.toNat ≤ 0xFEFF) :
    s.target a = .gap := by
  unfold State.target
  dsimp only
  rw [if_neg (by omega), if_neg (by omega), if_neg (by omega), if_neg (by omega), if_neg (by omega), if_neg (by omega),
    if_pos hhi]

/-- An address of the I/O window with no register in this mode (`10_state.md` R141). -/
theorem State.target_unmapped {s : State} {a : Word} (hlo : 0xFF00 ≤ a.toNat) (hhi : a.toNat ≤ 0xFF7F)
    (hr : ioRegAt s.cfg.cgbMode (a.toNat - 0xFF00) = none) : s.target a = .unmapped := by
  unfold State.target
  simp only [hr]
  repeat rw [if_neg (by omega)]
  rw [if_pos hhi]

/-- An access of an address whose target reads a fixed byte and ignores writes. -/
theorem State.access_inert {s : State} {a : Word} {t : Target} {b : Byte} (v : Byte) (h : s.target a = t)
    (hread : s.readTarget t = .byte b) (hwrite : s.writeTarget a v t = .ok s) :
    s.peek a = .byte b ∧ s.write a v = .ok s := by
  rw [State.peek, State.write, h]
  exact ⟨hread, hwrite⟩

/-- A write of work RAM. -/
theorem State.write_wram {s : State} {a : Word} {i : Nat} (v : Byte) (h : s.target a = .wram i) :
    s.write a v = .ok { s with wram := Memory.write s.wram i v } := by
  rw [State.write, h]
  rfl

/-- Settles O48: the echo address and the address 0x2000 below reach one cell of work RAM, and neither a read nor a
write of work RAM looks at the address again. -/
theorem echoAliasesWorkRam : Obligations.EchoAliasesWorkRam := by
  intro s a v hlo hhi
  have hle : (0x2000#16).toNat ≤ a.toNat := by
    rw [BitVec.toNat_ofNat]
    omega
  have hsub : (a - 0x2000).toNat = a.toNat - 0x2000 := BitVec.toNat_sub_of_le hle
  have hecho := s.target_echo hlo hhi
  have hwork := s.target_wram (a := a - 0x2000) (by omega) (by omega)
  rw [hsub] at hwork
  refine ⟨hecho.trans hwork.symm, ?_, ?_⟩
  · unfold State.read State.peek
    rw [hecho, hwork]
  · exact (State.write_wram v hecho).trans (State.write_wram v hwork).symm

/-! ### ROM reads and controller commands (`20_memory.md` R312) -/

/-- A read of the ROM range where the boot ROM does not lie. -/
theorem State.peek_rom {s : State} {a : Word} (h : a.toNat ≤ 0x7FFF)
    (hboot : s.bootMapped = false ∨ bootRange s.cfg.hw a.toNat = false) :
    s.peek a = .byte (s.cart.romByte (s.cart.romIndex a.toNat)) := by
  rw [State.peek, State.target_rom h hboot]
  rfl

/-- A write of the ROM range is a controller command, whether or not the boot ROM lies over it. -/
theorem State.write_rom (s : State) {a : Word} (v : Byte) (h : a.toNat ≤ 0x7FFF) :
    s.write a v = .ok { s with cart := { s.cart with ctrl := s.cart.ctrl.command a.toNat v } } := by
  unfold State.write State.target
  dsimp only
  rw [if_pos h]
  split <;> rfl

/-- A command whose result is known. -/
theorem State.write_command {s : State} {a : Word} {v : Byte} {c c' : Controller} (hctrl : s.cart.ctrl = c)
    (h : a.toNat < 0x8000) (hc : c.command a.toNat v = c') :
    s.write a v = .ok { s with cart := { s.cart with ctrl := c' } } := by
  rw [s.write_rom v (by omega), hctrl, hc]

/-- A command that leaves the latches changes nothing. -/
theorem State.write_command_self {s : State} {a : Word} {v : Byte} {c : Controller} (hctrl : s.cart.ctrl = c)
    (h : a.toNat < 0x8000) (hc : c.command a.toNat v = c) : s.write a v = .ok s := by
  subst hctrl
  exact State.write_command rfl h hc

/-- A command changes latches, never the controller's type. -/
theorem Controller.sameKind_command (c : Controller) (a : Nat) (v : Byte) : sameKind c (c.command a v) := by
  unfold Controller.command
  cases c with
  | romOnly => trivial
  | mbc1 | mbc2 | mbc3 | mbc5 =>
    dsimp only
    split_ifs <;> simp [sameKind]

/-- Settles O49: the overlay aside, the ROM range reaches the selected ROM byte, and a write there is a command. -/
theorem romWritesAreCommands : Obligations.RomWritesAreCommands := by
  intro s a v h
  exact ⟨fun hboot => State.peek_rom h (.inl hboot), _, Controller.sameKind_command _ _ _, s.write_rom v h⟩

/-! ### The controllers' commands as numbers -/

/-- MBC1's commands (`20_memory.md` R421). -/
theorem Controller.command_mbc1 (en : Bool) (b1 : BitVec 5) (b2 : BitVec 2) (md : Bool) (n : Nat) (v : Byte) :
    (Controller.mbc1 en b1 b2 md).command n v =
      if n < 0x2000 then .mbc1 (decide (v.toNat % 16 = 10)) b1 b2 md
      else if n < 0x4000 then .mbc1 en (BitVec.ofNat 5 (if v.toNat % 32 = 0 then 1 else v.toNat % 32)) b2 md
      else if n < 0x6000 then .mbc1 en b1 (BitVec.ofNat 2 v.toNat) md
      else .mbc1 en b1 b2 (decide (v.toNat % 2 = 1)) := by
  have hmode : v.getLsbD 0 = decide (v.toNat % 2 = 1) := Nat.testBit_zero _
  rw [Controller.command, ramEnable_eq, atLeastOne_eq, hmode]
  rfl

/-- MBC2's commands (`20_memory.md` R431). -/
theorem Controller.command_mbc2 (en : Bool) (romb : BitVec 4) (n : Nat) (v : Byte) :
    (Controller.mbc2 en romb).command n v =
      if n < 0x4000 then
        if n / 256 % 2 = 0 then .mbc2 (decide (v.toNat % 16 = 10)) romb
        else .mbc2 en (BitVec.ofNat 4 (if v.toNat % 16 = 0 then 1 else v.toNat % 16))
      else .mbc2 en romb := by
  rw [Controller.command, ramEnable_eq, atLeastOne_eq]
  rfl

/-- MBC3's commands (`20_memory.md` R441). -/
theorem Controller.command_mbc3 (en : Bool) (romb : BitVec 7) (ramb : BitVec 8) (n : Nat) (v : Byte) :
    (Controller.mbc3 en romb ramb).command n v =
      if n < 0x2000 then .mbc3 (decide (v.toNat % 16 = 10)) romb ramb
      else if n < 0x4000 then .mbc3 en (BitVec.ofNat 7 (if v.toNat % 128 = 0 then 1 else v.toNat % 128)) ramb
      else if n < 0x6000 then .mbc3 en romb v
      else .mbc3 en romb ramb := by
  rw [Controller.command, ramEnable_eq, atLeastOne_eq]
  rfl

/-- MBC5's commands (`20_memory.md` R450). -/
theorem Controller.command_mbc5 (rumble en : Bool) (romb : BitVec 9) (ramb : BitVec 4) (n : Nat) (v : Byte) :
    (Controller.mbc5 rumble en romb ramb).command n v =
      if n < 0x2000 then .mbc5 rumble (decide (v.toNat = 10)) romb ramb
      else if n < 0x3000 then .mbc5 rumble en (BitVec.ofNat 9 (romb.toNat / 256 * 256 + v.toNat)) ramb
      else if n < 0x4000 then .mbc5 rumble en (BitVec.ofNat 9 (v.toNat % 2 * 256 + romb.toNat % 256)) ramb
      else if n < 0x6000 then .mbc5 rumble en romb (BitVec.ofNat 4 (v.toNat % if rumble then 8 else 16))
      else .mbc5 rumble en romb ramb := by
  have henable : (v == 0x0A) = decide (v.toNat = 10) := by
    rw [Bool.eq_iff_iff, beq_iff_eq, decide_eq_true_eq, ← BitVec.toNat_inj]
    rfl
  have hlow : romb.extractLsb' 8 1 ++ v = BitVec.ofNat 9 (romb.toNat / 256 * 256 + v.toNat) := by
    have hbit : romb.toNat / 256 % 2 = romb.toNat / 256 := by have := romb.isLt; omega
    rw [append_eq_ofNat, extractLsb'_eq_ofNat, BitVec.toNat_ofNat, Nat.mul_comm]
    exact congrArg (fun k => BitVec.ofNat 9 (k * 256 + v.toNat)) hbit
  have hhigh : v.extractLsb' 0 1 ++ romb.extractLsb' 0 8 = BitVec.ofNat 9 (v.toNat % 2 * 256 + romb.toNat % 256) := by
    rw [append_eq_ofNat, Nat.mul_comm]
    rfl
  have hram : (if rumble then (v.extractLsb' 0 3).setWidth 4 else v.extractLsb' 0 4) =
      BitVec.ofNat 4 (v.toNat % if rumble then 8 else 16) := by
    cases rumble
    · exact (ofNat_mod_two_pow 4 v.toNat).symm
    · have hlt : v.toNat % 8 < 16 := by omega
      exact BitVec.eq_of_toNat_eq (by simp [Nat.mod_eq_of_lt hlt])
  rw [Controller.command, henable, hlow, hhigh, hram]

/-! ### The ROM banks -/

/-- The ROM byte an address of the lower half reaches (`20_memory.md` R401). -/
theorem Cart.romIndex_low {c : Cart} {n bank : Nat} (hn : n < 0x4000) (hb : c.ctrl.romBank n = bank) :
    c.romIndex n = (bank * 0x4000 + n) % c.romLen := by
  rw [Cart.romIndex, hb, Nat.mod_eq_of_lt hn]

/-- The ROM byte an address of the upper half reaches (`20_memory.md` R401). -/
theorem Cart.romIndex_high {c : Cart} {n bank : Nat} (hlo : 0x4000 ≤ n) (hhi : n < 0x8000)
    (hb : c.ctrl.romBank n = bank) : c.romIndex n = (bank * 0x4000 + (n - 0x4000)) % c.romLen := by
  have hmod : n % 0x4000 = n - 0x4000 := by omega
  rw [Cart.romIndex, hb, hmod]

/-- What the two halves of the ROM range read under a controller that keeps bank 0 in the lower one. -/
theorem State.peek_romWindow {s : State} {a : Word} {c : Controller} {bank : Nat} (hctrl : s.cart.ctrl = c)
    (hboot : s.bootMapped = false) (hlow : ∀ n, n < 0x4000 → c.romBank n = 0)
    (hhigh : ∀ n, ¬n < 0x4000 → c.romBank n = bank) :
    (a.toNat < 0x4000 → s.peek a = .byte (s.cart.romByte (a.toNat % s.cart.romLen))) ∧
      (0x4000 ≤ a.toNat → a.toNat < 0x8000 →
        s.peek a = .byte (s.cart.romByte ((bank * 0x4000 + (a.toNat - 0x4000)) % s.cart.romLen))) := by
  subst hctrl
  refine ⟨fun h => ?_, fun hlo hhi => ?_⟩
  · rw [State.peek_rom (by omega) (.inl hboot), Cart.romIndex_low h (hlow _ h), Nat.zero_mul, Nat.zero_add]
  · rw [State.peek_rom (by omega) (.inl hboot), Cart.romIndex_high hlo hhi (hhigh _ (by omega))]

/-- Settles O50: MBC1's command in each range, and the bank of each half of the ROM range. -/
theorem mbc1Banking : Obligations.Mbc1Banking := by
  intro s a v en b1 b2 md hctrl hboot cmd n low
  have hcmd := Controller.command_mbc1 en b1 b2 md n v
  refine ⟨fun h => ?_, fun hlo hhi => ?_, fun hlo hhi => ?_, fun hlo hhi => ?_, fun h => ?_, fun hlo hhi => ?_⟩
  · rw [if_pos h] at hcmd
    exact State.write_command hctrl (by omega) hcmd
  · rw [if_neg (by omega), if_pos hhi] at hcmd
    exact State.write_command hctrl (by omega) hcmd
  · rw [if_neg (by omega), if_neg (by omega), if_pos hhi] at hcmd
    exact State.write_command hctrl (by omega) hcmd
  · rw [if_neg (by omega), if_neg (by omega), if_neg (by omega)] at hcmd
    exact State.write_command hctrl hhi hcmd
  · have hbank : s.cart.ctrl.romBank n = if md then b2.toNat * 32 else 0 := by
      rw [hctrl, Controller.romBank, if_pos h]
    rw [State.peek_rom (by omega) (.inl hboot), Cart.romIndex_low h hbank]
  · have hbank : s.cart.ctrl.romBank n = b2.toNat * 32 + b1.toNat := by
      rw [hctrl, Controller.romBank, if_neg (by omega)]
    rw [State.peek_rom (by omega) (.inl hboot), Cart.romIndex_high hlo hhi hbank]

/-- Settles O51: each controller's command in each range, and its window, bank 0 below the selected bank. -/
theorem otherControllersBanking : Obligations.OtherControllersBanking := by
  intro s a v hboot cmd n window
  refine ⟨fun hctrl => ?_, fun en romb hctrl => ?_, fun en romb ramb hctrl => ?_,
    fun rumble en romb ramb hctrl => ?_⟩
  · exact ⟨State.peek_romWindow hctrl hboot (fun _ hk => if_pos hk) (fun _ hk => if_neg hk), fun h =>
      State.write_command_self hctrl h rfl⟩
  · have hcmd := Controller.command_mbc2 en romb n v
    refine ⟨State.peek_romWindow hctrl hboot (fun _ hk => if_pos hk) (fun _ hk => if_neg hk),
      fun h heven => ?_, fun h hodd => ?_, fun hlo hhi => ?_⟩
    · rw [if_pos h, if_pos heven] at hcmd
      exact State.write_command hctrl (by omega) hcmd
    · rw [if_pos h, if_neg (by omega)] at hcmd
      exact State.write_command hctrl (by omega) hcmd
    · rw [if_neg (by omega)] at hcmd
      exact State.write_command_self hctrl hhi hcmd
  · have hcmd := Controller.command_mbc3 en romb ramb n v
    refine ⟨State.peek_romWindow hctrl hboot (fun _ hk => if_pos hk) (fun _ hk => if_neg hk),
      fun h => ?_, fun hlo hhi => ?_, fun hlo hhi => ?_, fun hlo hhi => ?_⟩
    · rw [if_pos h] at hcmd
      exact State.write_command hctrl (by omega) hcmd
    · rw [if_neg (by omega), if_pos hhi] at hcmd
      exact State.write_command hctrl (by omega) hcmd
    · rw [if_neg (by omega), if_neg (by omega), if_pos hhi] at hcmd
      exact State.write_command hctrl (by omega) hcmd
    · rw [if_neg (by omega), if_neg (by omega), if_neg (by omega)] at hcmd
      exact State.write_command_self hctrl hhi hcmd
  · have hcmd := Controller.command_mbc5 rumble en romb ramb n v
    refine ⟨State.peek_romWindow hctrl hboot (fun _ hk => if_pos hk) (fun _ hk => if_neg hk),
      fun h => ?_, fun hlo hhi => ?_, fun hlo hhi => ?_, fun hlo hhi => ?_, fun hlo hhi => ?_⟩
    · rw [if_pos h] at hcmd
      exact State.write_command hctrl (by omega) hcmd
    · rw [if_neg (by omega), if_pos hhi] at hcmd
      exact State.write_command hctrl (by omega) hcmd
    · rw [if_neg (by omega), if_neg (by omega), if_pos hhi] at hcmd
      exact State.write_command hctrl (by omega) hcmd
    · rw [if_neg (by omega), if_neg (by omega), if_neg (by omega), if_pos hhi] at hcmd
      exact State.write_command hctrl (by omega) hcmd
    · rw [if_neg (by omega), if_neg (by omega), if_neg (by omega), if_neg (by omega)] at hcmd
      exact State.write_command_self hctrl hhi hcmd

/-! ### External RAM -/

/-- RAM disabled or absent (`20_memory.md` R314). -/
theorem State.access_closed {s : State} {a : Word} (v : Byte) (h : s.target a = .ext .closed) :
    s.peek a = .byte 0xFF ∧ s.write a v = .ok s :=
  State.access_inert v h rfl rfl

/-- An MBC3 clock register (`20_memory.md` R443). -/
theorem State.access_clock {s : State} {a : Word} (v : Byte) (h : s.target a = .ext .clock) :
    s.read a = .error .mbc3Clock ∧ s.write a v = .error .mbc3Clock := by
  rw [State.read, State.peek, State.write, h]
  exact ⟨rfl, rfl⟩

/-- A bank of a RAM of bytes, at an offset: the cell, wrapped at the size, or nothing where there is no RAM
(`20_memory.md` R402, R314). -/
theorem State.access_ramBank {s : State} {a : Word} {bank o : Nat} (v : Byte)
    (h : s.target a = .ext (ramBank s.cart.ramLen bank o)) :
    if s.cart.ramLen = 0 then s.peek a = .byte 0xFF ∧ s.write a v = .ok s
    else
      let i := (bank * 0x2000 + o) % s.cart.ramLen
      s.peek a = .byte (s.cart.ramByte i) ∧
        s.write a v = .ok { s with cart := { s.cart with ram := Memory.write s.cart.ram i v } } := by
  by_cases hlen : s.cart.ramLen = 0
  · rw [ramBank, if_pos hlen] at h
    rw [if_pos hlen]
    exact State.access_closed v h
  · rw [ramBank, if_neg hlen] at h
    rw [if_neg hlen, State.peek, State.write, h]
    exact ⟨rfl, rfl⟩

/-- What a read of MBC2's cell gives: the high four bits are 1 (`20_memory.md` R433). -/
theorem Cart.nibbleByte_eq (c : Cart) (i : Nat) :
    c.nibbleByte i = BitVec.ofNat 8 (0xF0 + (c.ramByte i).toNat % 16) := by
  rw [Cart.nibbleByte, append_eq_ofNat]
  rfl

/-- A cell of MBC2's RAM (`20_memory.md` R433). -/
theorem State.access_nibble {s : State} {a : Word} {i : Nat} (v : Byte) (h : s.target a = .ext (.nibble i)) :
    s.peek a = .byte (BitVec.ofNat 8 (0xF0 + (s.cart.ramByte i).toNat % 16)) ∧
      s.write a v = .ok { s with cart := { s.cart with ram := Memory.write s.cart.ram i (v &&& 0x0F) } } := by
  rw [State.peek, State.write, h, ← Cart.nibbleByte_eq]
  exact ⟨rfl, rfl⟩

/-- What the external RAM window reaches under a known controller. -/
theorem State.target_ext_of_ctrl {s : State} {a : Word} {c : Controller} {t : ExtTarget} (hlo : 0xA000 ≤ a.toNat)
    (hhi : a.toNat ≤ 0xBFFF) (hctrl : s.cart.ctrl = c)
    (ht : { s.cart with ctrl := c }.extTarget (a.toNat - 0xA000) = t) : s.target a = .ext t := by
  subst hctrl
  rw [s.target_extWindow hlo hhi]
  exact congrArg Target.ext ht

/-- The low four bits of a byte as a number. -/
theorem and_0x0F_eq (v : Byte) : v &&& 0x0F = BitVec.ofNat 8 (v.toNat % 16) := by
  apply BitVec.eq_of_toNat_eq
  have hmask : (v &&& 0x0F).toNat = v.toNat % 16 := by
    rw [BitVec.toNat_and]
    exact Nat.and_two_pow_sub_one_eq_mod v.toNat 4
  rw [hmask, BitVec.toNat_ofNat]
  omega

/-- The saved RAM has the RAM's size. -/
theorem State.saveRam_length (s : State) : s.saveRam.length = s.cart.ramLen := by
  rw [State.saveRam, List.length_map, List.length_range]

/-- A byte of the saved RAM of MBC2: the cell in the low four bits (`60_exceptions.md` R1784). -/
theorem State.saveRam_getD_mbc2 {s : State} {i : Nat} {en : Bool} {romb : BitVec 4} (hi : i < s.cart.ramLen)
    (hctrl : s.cart.ctrl = .mbc2 en romb) : s.saveRam.getD i 0 = BitVec.ofNat 8 ((s.cart.ramByte i).toNat % 16) := by
  rw [State.saveRam, List.getD_eq_getElem?_getD, List.getElem?_map, List.getElem?_range hi, hctrl]
  exact and_0x0F_eq _

/-- A byte of the saved RAM of any other controller (`60_exceptions.md` R1784). -/
theorem State.saveRam_getD {s : State} {i : Nat} (hi : i < s.cart.ramLen)
    (hne : ∀ en romb, s.cart.ctrl ≠ .mbc2 en romb) : s.saveRam.getD i 0 = s.cart.ramByte i := by
  rw [State.saveRam, List.getD_eq_getElem?_getD, List.getElem?_map, List.getElem?_range hi]
  cases hctrl : s.cart.ctrl with
  | mbc2 en romb => exact absurd hctrl (hne en romb)
  | _ => rfl

/-- Settles O52: the window reaches a RAM bank, a four-bit cell, a clock register or nothing, as the controller says. -/
theorem externalRamAccess : Obligations.ExternalRamAccess := by
  refine ⟨fun s => ⟨s.saveRam_length, fun i hi => ⟨State.saveRam_getD hi, fun _ _ => State.saveRam_getD_mbc2 hi⟩⟩, ?_⟩
  intro s a v hlo hhi o closed cell
  have hbank {k : Nat} (h : s.target a = .ext (ramBank s.cart.ramLen k o)) : cell k := State.access_ramBank v h
  have hclosed (h : s.target a = .ext .closed) : closed := State.access_closed v h
  have htarget {c : Controller} {t : ExtTarget} (hctrl : s.cart.ctrl = c)
      (ht : { s.cart with ctrl := c }.extTarget o = t) : s.target a = .ext t :=
    State.target_ext_of_ctrl hlo hhi hctrl ht
  refine ⟨fun h => hbank (htarget h rfl),
    fun b1 b2 md h => hbank (htarget h rfl), fun b1 b2 md h => hclosed (htarget h rfl),
    fun romb h => State.access_nibble v (htarget h rfl), fun romb h => hclosed (htarget h rfl),
    fun romb ramb h => ⟨fun hle => ?_, fun hgt hout => ?_, fun h8 hC => ?_⟩,
    fun romb ramb h => hclosed (htarget h rfl),
    fun rumble romb ramb h => hbank (htarget h rfl), fun rumble romb ramb h => hclosed (htarget h rfl)⟩
  · exact hbank (htarget h (if_pos hle))
  · exact hclosed (htarget h ((if_neg (by omega)).trans (if_neg (by omega))))
  · exact State.access_clock v (htarget h ((if_neg (by omega)).trans (if_pos ⟨h8, hC⟩)))

/-! ### The I/O registers (`10_state.md` R140) -/

/-- A read of a register at its offset in the I/O window. -/
theorem State.peek_ioAt (s : State) {a : Word} (r : IoReg) (n : Nat) (hr : ioRegAt s.cfg.cgbMode n = some r := by rfl)
    (ha : a.toNat = 0xFF00 + n := by rfl) (hn : n ≤ 0x7F := by decide) : s.peek a = s.readIo r :=
  State.peek_io (s.target_io ha hn hr)

/-- A write of a register other than DMA at its offset in the I/O window. -/
theorem State.write_ioAt (s : State) {a : Word} (v : Byte) (r : IoReg) (n : Nat)
    (hr : ioRegAt s.cfg.cgbMode n = some r := by rfl) (hdma : r ≠ .dma := by decide)
    (ha : a.toNat = 0xFF00 + n := by rfl) (hn : n ≤ 0x7F := by decide) : s.write a v = s.writeIo r v :=
  State.write_io v hdma (s.target_io ha hn hr)

/-- IE lies outside the I/O window (`20_memory.md` R321). -/
theorem State.target_ieReg (s : State) : s.target 0xFFFF = .ie := rfl

/-- The offsets with no register, those of the CGB-only ones in DMG mode among them (`10_state.md` R141). -/
theorem ioRegAt_eq_none : ∀ (cgbMode : Bool) (n : Nat), n < 0x80 →
    (n = 0x03 ∨ (0x08 ≤ n ∧ n ≤ 0x0E) ∨ (0x27 ≤ n ∧ n ≤ 0x2F) ∨ n = 0x4C ∨ n = 0x4E ∨ (0x57 ≤ n ∧ n ≤ 0x67) ∨
      (0x6D ≤ n ∧ n ≤ 0x6F) ∨ 0x71 ≤ n ∨
      (cgbMode = false ∧ n ∈ [0x4D, 0x4F, 0x51, 0x52, 0x53, 0x54, 0x55, 0x56, 0x68, 0x69, 0x6A, 0x6B, 0x6C, 0x70])) →
    ioRegAt cgbMode n = none := by
  decide +kernel

/-- The register at an offset in CGB mode. -/
theorem State.ioRegAt_cgb {s : State} {n : Nat} {r : IoReg} (h : s.cfg.cgbMode = true)
    (hr : ioRegAt true n = some r) : ioRegAt s.cfg.cgbMode n = some r :=
  h ▸ hr

/-- HDMA1-HDMA4 on the bus, in CGB mode (`10_state.md` R175). -/
theorem State.target_hdma {s : State} {a : Word} (h : s.cfg.cgbMode = true) (hlo : 0xFF51 ≤ a.toNat)
    (hhi : a.toNat ≤ 0xFF54) : s.target a = .io .hdma := by
  have hreg : ioRegAt true (a.toNat - 0xFF00) = some .hdma := by
    unfold ioRegAt
    rw [if_neg (by omega), if_pos (by omega)]
    rfl
  exact s.target_io (by omega) (by omega) (State.ioRegAt_cgb h hreg)

/-- What SC reads (`10_state.md` R152): bit 1 is stored in CGB mode only. -/
theorem Serial.readSc_eq (p : Serial) (cgbMode : Bool) :
    p.readSc cgbMode = if cgbMode then BitVec.ofNat 8 (0x7C + 128 * p.busy.toNat + 2 * p.fast.toNat + p.internal.toNat)
      else BitVec.ofNat 8 (0x7E + 128 * p.busy.toNat + p.internal.toNat) := by
  have hfields : ∀ cgbMode busy fast internal : Bool,
      ofBits busy true true true true true (if cgbMode then fast else true) internal =
        if cgbMode then BitVec.ofNat 8 (0x7C + 128 * busy.toNat + 2 * fast.toNat + internal.toNat)
        else BitVec.ofNat 8 (0x7E + 128 * busy.toNat + internal.toNat) := by
    decide
  exact hfields cgbMode p.busy p.fast p.internal

/-- What STAT reads (`10_state.md` R161). -/
theorem Ppu.readStat_eq (p : Ppu) :
    p.readStat =
      BitVec.ofNat 8 (0x80 + 8 * p.statSel.toNat + 4 * p.coinc.toNat + if p.on then p.mode.code.toNat else 0) := by
  have hfields : ∀ (sel : BitVec 4) (coinc : Bool) (code : BitVec 2),
      1#1 ++ sel ++ BitVec.ofBool coinc ++ code =
        BitVec.ofNat 8 (0x80 + 8 * sel.toNat + 4 * coinc.toNat + code.toNat) := by
    decide
  rw [Ppu.readStat, hfields]
  split <;> rfl

/-- What RP reads: bits 5-1 are 1 (`10_state.md` R176). -/
theorem rp_read : ∀ (high : BitVec 2) (low : BitVec 1),
    high ++ 0b11111#5 ++ low = BitVec.ofNat 8 (0x3E + 64 * high.toNat + low.toNat) := by
  decide

/-- Settles O53: each address is the gap, unmapped, or a register whose fields are the bits the table gives. -/
theorem gapAndIoReads : Obligations.GapAndIoReads := by
  refine ⟨fun s a v => ⟨fun hlo hhi => ?_, fun hlo hhi hn => ?_⟩, fun s v => ?_, fun s => ?_⟩
  · exact State.access_inert v (s.target_gap hlo hhi) rfl rfl
  · exact State.access_inert v (State.target_unmapped hlo hhi (ioRegAt_eq_none _ _ (by omega) hn)) rfl rfl
  · refine ⟨s.write_ioAt v .ifl 0x0F, ?_, s.write_ioAt v .scy 0x42, s.peek_ioAt .scy 0x42, s.write_ioAt v .scx 0x43,
      s.peek_ioAt .scx 0x43, s.write_ioAt v .bgp 0x47, s.peek_ioAt .bgp 0x47, s.write_ioAt v .obp0 0x48,
      s.peek_ioAt .obp0 0x48, s.write_ioAt v .obp1 0x49, s.peek_ioAt .obp1 0x49, s.write_ioAt v .wy 0x4A,
      s.peek_ioAt .wy 0x4A, s.write_ioAt v .wx 0x4B, s.peek_ioAt .wx 0x4B, s.peek_ioAt .sb 0x01, s.peek_ioAt .lyc 0x45,
      fun u _ => u.peek_ioAt .boot 0x50, fun hcgb => ?_⟩
    · rw [State.write, s.target_ieReg]
      rfl
    · refine ⟨fun a hlo hhi => ?_, fun a hlo hhi => ?_, s.write_ioAt v .hdma5 0x55 (State.ioRegAt_cgb hcgb rfl),
        s.write_ioAt v .key1 0x4D (State.ioRegAt_cgb hcgb rfl), ?_,
        s.write_ioAt v .opri 0x6C (State.ioRegAt_cgb hcgb rfl)⟩
      · by_cases h : a.toNat = 0xFF55
        · exact s.peek_ioAt .hdma5 0x55 (State.ioRegAt_cgb hcgb rfl) h
        · exact State.peek_io (State.target_hdma hcgb hlo (by omega))
      · exact State.write_io v (by decide) (State.target_hdma hcgb hlo hhi)
      · rw [s.write_ioAt v .rp 0x56 (State.ioRegAt_cgb hcgb rfl), State.writeIo, extractLsb'_eq_ofNat v 6 2]
        rfl
  · refine ⟨?_, ?_, s.peek_ioAt .tima 0x05, s.peek_ioAt .tma 0x06, ?_, ?_, s.peek_ioAt .lcdc 0x40, ?_,
      s.peek_ioAt .ly 0x44, s.peek_ioAt .dma 0x46, s.peek_ioAt .boot 0x50, ?_, fun hcgb => ?_⟩
    · rw [s.peek_ioAt .sc 0x02, State.readIo, Serial.readSc_eq]
    · rw [s.peek_ioAt .div 0x04, State.readIo, hi8, extractLsb'_eq_ofNat]
      rfl
    · rw [s.peek_ioAt .tac 0x07, State.readIo, append_eq_ofNat]
      rfl
    · rw [s.peek_ioAt .ifl 0x0F, State.readIo, append_eq_ofNat]
      rfl
    · rw [s.peek_ioAt .stat 0x41, State.readIo, Ppu.readStat_eq]
      cases s.ppu.mode <;> rfl
    · rw [State.peek, s.target_ieReg]
      rfl
    · refine ⟨s.peek_ioAt .key1 0x4D (State.ioRegAt_cgb hcgb rfl), ?_, ?_, ?_, ?_⟩
      · rw [s.peek_ioAt .vbk 0x4F (State.ioRegAt_cgb hcgb rfl), State.readIo, vbk_read]
      · rw [s.peek_ioAt .rp 0x56 (State.ioRegAt_cgb hcgb rfl), State.readIo, rp_read]
      · rw [s.peek_ioAt .opri 0x6C (State.ioRegAt_cgb hcgb rfl), State.readIo, vbk_read]
      · rw [s.peek_ioAt .svbk 0x70 (State.ioRegAt_cgb hcgb rfl), State.readIo, append_eq_ofNat]
        rfl

/-! ### The boot ROM overlay -/

/-- No write of an I/O register maps the boot ROM (`20_memory.md` R320). -/
theorem State.writeIo_bootMapped {s u : State} {r : IoReg} {v : Byte} (hs : s.bootMapped = false)
    (h : s.writeIo r v = .ok u) : u.bootMapped = false := by
  cases r
  case key1 => simp only [State.writeIo] at h; split at h <;> cases h; exact hs
  case hdma5 => cases h
  case lcdc => cases h; unfold State.writeLcdc; dsimp only; split_ifs <;> exact hs
  case lyc => cases h; unfold State.writeLyc; split <;> exact hs
  case boot => cases h; split <;> [rfl; exact hs]
  all_goals cases h; exact hs

/-- No write maps the boot ROM (`20_memory.md` R320). -/
theorem State.write_bootMapped {s u : State} {a : Word} {v : Byte} (hs : s.bootMapped = false)
    (h : s.write a v = .ok u) : u.bootMapped = false := by
  refine State.write_cases (P := fun t => t.bootMapped = false) h (fun _ => hs) (fun _ => hs) (fun _ _ _ => hs)
    (fun _ _ _ => hs) (fun _ _ => hs) (fun _ _ _ => hs) (fun _ _ => hs) (fun _ => hs)
    (fun r w _ _ hw => State.writeIo_bootMapped hs hw) (fun w _ _ hw => ?_)
  rw [State.dmaCopy_ok _ _ _ hw]
  exact hs

/-- BOOT is on the bus in both modes. -/
theorem State.target_bootReg (s : State) : s.target 0xFF50 = .io .boot :=
  s.target_io (n := 0x50) rfl (by decide) rfl

/-- A write of BOOT (`20_memory.md` R320). -/
theorem State.write_bootReg (s : State) (v : Byte) :
    s.write 0xFF50 v = .ok (if v.getLsbD 0 then { s with bootMapped := false } else s) :=
  State.write_io v (by decide) s.target_bootReg

/-- Settles O59: the overlay hides the ROM from reads alone, and only a write of BOOT changes it, by unmapping. -/
theorem bootRomOverlay : Obligations.BootRomOverlay := by
  intro s a v inRange
  have hrange : bootRange s.cfg.hw a.toNat = true ↔ inRange := bootRange_iff _ _
  have hrom (h : inRange) : a.toNat ≤ 0x7FFF := by omega
  refine ⟨fun hmap hin => ?_, fun h hout => ?_, fun hin t ht => ?_, fun hv => ?_, fun hv => ?_,
    fun hmap t => State.write_bootMapped hmap⟩
  · rw [State.peek, State.target_boot (hrom hin) hmap (hrange.2 hin)]
    rfl
  · refine State.peek_rom h (hout.imp_right fun hn => ?_)
    rw [Bool.eq_false_iff]
    exact mt hrange.1 hn
  · rw [State.write_rom _ v (hrom hin)] at ht ⊢
    cases ht
    rfl
  · rw [State.write_bootReg, if_pos hv]
  · rw [State.write_bootReg, hv]
    rfl

end Sys2Proof.Machine
end

section
/-! PROOFS. 8-bit arithmetic and logic (`40_alu8.md`). The eight ALU operations are three rows each of one table, so an
operation's register, memory and immediate forms are proved once for all eight; INC and DEC of a register, DAA, CPL,
SCF and CCF leave new registers and nothing else. -/

namespace Sys2Proof.Machine

/-! ### The rows of the ALU table (`30_encoding.md` R510) -/

/-- The number of an operation in the ALU field (`30_encoding.md` R510). -/
def AluOp.field : AluOp → Fin 8
  | .add => 0 | .adc => 1 | .sub => 2 | .sbc => 3 | .and => 4 | .xor => 5 | .or => 6 | .cp => 7

/-- The row on a register: the operation in bits 5-3, the register in bits 2-0. -/
theorem spells_aluRegInstr (op : AluOp) (r : Reg8) :
    Spells [BitVec.ofNat 8 (0x80 + 8 * op.field) + r.field] (aluRegInstr r op.field) := by
  cases op <;> cases r <;> exact ⟨rfl, rfl⟩

/-- The row on the byte at HL: 6 in bits 2-0. -/
theorem spells_aluHlInstr (op : AluOp) : Spells [BitVec.ofNat 8 (0x86 + 8 * op.field)] (aluHlInstr op.field) := by
  cases op <;> exact ⟨rfl, rfl⟩

/-- The row on an immediate, in the second byte. -/
theorem spells_aluImmInstr (op : AluOp) (n : Byte) :
    Spells [BitVec.ofNat 8 (0xC6 + 8 * op.field), n] (aluImmInstr n op.field) := by
  cases op <;> exact ⟨rfl, rfl⟩

theorem exec_aluRegInstr (op : AluOp) (r : Reg8) (s : State) :
    exec (aluRegInstr r op.field) s = s.conclude (s.aluReg op r) := by
  cases op <;> rfl

theorem exec_aluHlInstr (op : AluOp) (s : State) : exec (aluHlInstr op.field) s = s.conclude (s.aluHl op) := by
  cases op <;> rfl

theorem exec_aluImmInstr (op : AluOp) (n : Byte) (s : State) :
    exec (aluImmInstr n op.field) s = s.conclude (s.aluImm op n) := by
  cases op <;> rfl

/-- The three forms of an ALU operation that leaves the registers `x b` on the operand `b`: the bytes of each, and its
whole next state. -/
theorem aluForms (s : State) (r : Reg8) (n : Byte) (op : AluOp) (x : Byte → Regs)
    (hx : ∀ b, { s.regs with
      a := (op.apply s.regs.a b s.regs.f.c).1, f := (op.apply s.regs.a b s.regs.f.c).2 } = x b) :
    (Spells [BitVec.ofNat 8 (0x80 + 8 * op.field) + r.field] (aluRegInstr r op.field) ∧
      exec (aluRegInstr r op.field) s = .next (s.stepTo s 1 4 (x (s.reg r)))) ∧
    (Spells [BitVec.ofNat 8 (0x86 + 8 * op.field)] (aluHlInstr op.field) ∧
      Loads (aluHlInstr op.field) s s.regs.hl fun b u => s.stepTo u 1 8 (x b)) ∧
    (Spells [BitVec.ofNat 8 (0xC6 + 8 * op.field), n] (aluImmInstr n op.field) ∧
      exec (aluImmInstr n op.field) s = .next (s.stepTo s 2 8 (x n))) := by
  refine ⟨⟨spells_aluRegInstr op r, ?_⟩, ⟨spells_aluHlInstr op, ?_⟩, spells_aluImmInstr op n, ?_⟩
  · rw [exec_aluRegInstr, aluReg_next s op r _ (hx _)]
  · exact aluHl_loads _ s op x (exec_aluHlInstr op s) hx
  · rw [exec_aluImmInstr, aluImm_next s op n _ (hx _)]

/-! ### The eight operations -/

/-- Settles O1: ADD and ADC are the adder's two rows of the ALU table. -/
theorem addAdcResults : Obligations.AddAdcResults := by
  intro s r n
  obtain ⟨addR, addHl, addN⟩ := aluForms s r n .add _ fun b => add8_plus s.regs b false
  obtain ⟨adcR, adcHl, adcN⟩ := aluForms s r n .adc _ fun b => add8_plus s.regs b s.regs.f.c
  exact ⟨addR, addHl, addN, adcR, adcHl, adcN⟩

/-- Z of a comparison says that the operands are equal (`40_alu8.md` R631). -/
theorem Regs.compared_z_iff (x : Regs) (n : Byte) : (x.compared n false).f.z = true ↔ x.a = n := by
  have := x.a.isLt
  have := n.isLt
  rw [← BitVec.toNat_inj, Regs.compared, beq_iff_eq, Bool.toNat_false]
  omega

/-- C of a comparison says that A is below the operand (`40_alu8.md` R631). -/
theorem Regs.compared_c_iff (x : Regs) (n : Byte) : (x.compared n false).f.c = true ↔ x.a.toNat < n.toNat :=
  decide_eq_true_iff

/-- Settles O2: SUB, SBC and CP are the subtractor's three rows of the ALU table. -/
theorem subSbcCpResults : Obligations.SubSbcCpResults := by
  intro s r n
  obtain ⟨subR, subHl, subN⟩ := aluForms s r n .sub _ fun b => sub8_minus s.regs b false
  obtain ⟨sbcR, sbcHl, sbcN⟩ := aluForms s r n .sbc _ fun b => sub8_minus s.regs b s.regs.f.c
  obtain ⟨cpR, cpHl, cpN⟩ := aluForms s r n .cp _ fun b => sub8_compared s.regs b false
  exact ⟨subR, subHl, subN, sbcR, sbcHl, sbcN, cpR, cpHl, cpN, s.regs.compared_z_iff n, s.regs.compared_c_iff n⟩

/-- Settles O3: AND, XOR and OR are the three logical rows of the ALU table. -/
theorem andXorOrResults : Obligations.AndXorOrResults := by
  intro s r n
  obtain ⟨andR, andHl, andN⟩ := aluForms s r n .and _ fun b => logicFlags_logic s.regs (s.regs.a &&& b) true
  obtain ⟨xorR, xorHl, xorN⟩ := aluForms s r n .xor _ fun b => logicFlags_logic s.regs (s.regs.a ^^^ b) false
  obtain ⟨orR, orHl, orN⟩ := aluForms s r n .or _ fun b => logicFlags_logic s.regs (s.regs.a ||| b) false
  exact ⟨andR, andHl, andN, xorR, xorHl, xorN, orR, orHl, orN⟩

/-! ### INC and DEC -/

/-- An instruction whose effect is its bytes, its cycles and the registers `x` it leaves. -/
theorem exec_regs_next {i : Instr} {s : State} {n c : Nat} {x : Regs} (hn : 1 ≤ n)
    (h : exec i s = s.conclude (.ok ({ s.advance n with regs := x }.cost c))) :
    exec i s = .next (s.stepTo s n c x) := by
  rw [h, State.advance_eq_with s n hn]
  rfl

/-- The row of INC: the register in bits 5-3. -/
theorem spells_incR (r : Reg8) : Spells [0x04 + 8 * r.field] (.incR r) := by
  cases r <;> exact ⟨rfl, rfl⟩

/-- The row of DEC: the register in bits 5-3. -/
theorem spells_decR (r : Reg8) : Spells [0x05 + 8 * r.field] (.decR r) := by
  cases r <;> exact ⟨rfl, rfl⟩

/-- An instruction that writes `g v` back for the byte `v` at HL and leaves the flags `ff v`. -/
theorem modifyHl_modifies {i : Instr} {s : State} {c : Nat} {g : Byte → Byte} {ff : Byte → Flags → Flags}
    (h : exec i s = s.conclude (s.modifyHl 1 c (fun v _ => g v) ff)) :
    Modifies i s s.regs.hl g fun v w => s.stepTo w 1 c { s.regs with f := ff v s.regs.f } := by
  refine modifies_intro h (fun _ => rfl) fun v w hw => ?_
  rw [hw, State.advance_eq_with s 1 (by decide)]
  rfl

/-- Settles O4: the register forms leave new registers, the memory forms write the byte read back. -/
theorem incDecByteResults : Obligations.IncDecByteResults := by
  intro s r
  simp only [← incFlags_eq, ← decFlags_eq]
  exact ⟨⟨spells_incR r, exec_regs_next (by decide) rfl⟩, ⟨⟨rfl, rfl⟩, modifyHl_modifies rfl⟩,
    ⟨spells_decR r, exec_regs_next (by decide) rfl⟩, ⟨rfl, rfl⟩, modifyHl_modifies rfl⟩

/-! ### DAA, CPL, SCF and CCF -/

/-- DAA's result and flags as numbers (`40_alu8.md` R650). -/
theorem daaResult_eq (a : Byte) (f : Flags) :
    let big := f.c = true ∨ (f.n = false ∧ 0x99 < a.toNat)
    let low := f.h = true ∨ (f.n = false ∧ 9 < a.toNat % 16)
    let adjust := (if big then 0x60 else 0) + if low then 6 else 0
    let r := if f.n = true then (512 + a.toNat - adjust) % 256 else (a.toNat + adjust) % 256
    daaResult a f = (BitVec.ofNat 8 r, { z := r == 0, n := f.n, h := false, c := decide big }) :=
  daaResult_table f.n f.h f.c a.toFin

/-- Settles O5: each of the four leaves new registers and nothing else, those of DAA by its table. -/
theorem daaCplScfCcfResults : Obligations.DaaCplScfCcfResults := by
  intro s
  refine ⟨⟨⟨rfl, rfl⟩, exec_regs_next (by decide) ?_⟩, ⟨⟨rfl, rfl⟩, exec_regs_next (by decide) ?_⟩,
    ⟨⟨rfl, rfl⟩, exec_regs_next (by decide) rfl⟩, ⟨rfl, rfl⟩, exec_regs_next (by decide) rfl⟩
  · show execDaa s = _
    rw [execDaa, daaResult_eq]
    rfl
  · rw [← BitVec.xor_allOnes]
    rfl

end Sys2Proof.Machine
end

section
/-! PROOFS. 16-bit arithmetic (`41_alu16.md`). An instruction that touches neither memory nor control leaves new
registers and a new SP; a pair is one or the other of these, so a write of a pair is one case of that. -/

namespace Sys2Proof.Machine

/-! ### Pairs (`00_scope.md` R35) -/

/-- A pair reads back the word written to it. -/
theorem State.pair_setPair_same (s : State) (p : Reg16) (w : Word) : (s.setPair p w).pair p = w := by
  cases p with
  | sp => rfl
  | bc | de | hl => exact hi8_lo8 w

/-- The pairs overlap nowhere: a write of one leaves the others. -/
theorem State.pair_setPair_of_ne (s : State) {p q : Reg16} (w : Word) (h : q ≠ p) : (s.setPair p w).pair q = s.pair q := by
  cases p with
  | bc => cases q with
    | bc => exact absurd rfl h
    | de | hl | sp => rfl
  | de => cases q with
    | de => exact absurd rfl h
    | bc | hl | sp => rfl
  | hl => cases q with
    | hl => exact absurd rfl h
    | bc | de | sp => rfl
  | sp => cases q with
    | sp => exact absurd rfl h
    | bc | de | hl => rfl

/-! ### The rows with a pair in bits 5-4 (`30_encoding.md` R510) -/

theorem spells_addHlRr (p : Reg16) : Spells [0x09 + 16 * p.field] (.addHlRr p) := by
  cases p <;> exact ⟨rfl, rfl⟩

theorem spells_incRr (p : Reg16) : Spells [0x03 + 16 * p.field] (.incRr p) := by
  cases p <;> exact ⟨rfl, rfl⟩

theorem spells_decRr (p : Reg16) : Spells [0x0B + 16 * p.field] (.decRr p) := by
  cases p <;> exact ⟨rfl, rfl⟩

/-! ### Whole instructions -/

/-- An instruction whose effect is its bytes, its cycles, the registers `x` and the SP it leaves. -/
theorem exec_regs_sp_next {i : Instr} {s : State} {n c : Nat} {x : Regs} {w : Word} (hn : 1 ≤ n)
    (h : exec i s = s.conclude (.ok ({ s.advance n with regs := x, sp := w }.cost c))) :
    exec i s = .next (s.stepTo { s with sp := w } n c x) := by
  rw [h, State.advance_eq_with s n hn]
  rfl

/-- An instruction whose effect is its bytes, its cycles and the word it leaves in a pair. -/
theorem exec_setPair_next {i : Instr} {s : State} {n c : Nat} {p : Reg16} {v : Word} (hn : 1 ≤ n)
    (h : exec i s = s.conclude (.ok (((s.advance n).setPair p v).cost c))) :
    exec i s = .next (s.stepTo (s.setPair p v) n c (s.setPair p v).regs) := by
  cases p with
  | sp => exact exec_regs_sp_next hn h
  | bc | de | hl => exact exec_regs_next hn h

/-- `spAdd` as numbers (`41_alu16.md` R700). -/
theorem spAdd_eq (sp : Word) (e : Byte) :
    spAdd sp e = (BitVec.ofInt 16 (sp.toNat + e.toInt),
      { z := false, n := false, h := decide (15 < sp.toNat % 16 + e.toNat % 16),
        c := decide (255 < sp.toNat % 256 + e.toNat) }) := by
  rw [spAdd, add_sext16]

/-- Settles O6: INC and DEC leave a pair, the others HL or SP with the flags of the adder they use. -/
theorem wordArithmeticResults : Obligations.WordArithmeticResults := by
  intro s p e
  have hadd : exec (.addSpE e) s =
      .next (s.stepTo { s with sp := (spAdd s.sp e).1 } 2 16 { s.regs with f := (spAdd s.sp e).2 }) :=
    exec_regs_sp_next (by decide) rfl
  have hld : exec (.ldHlSpE e) s = .next (s.stepTo s 2 12
      { s.regs with h := hi8 (spAdd s.sp e).1, l := lo8 (spAdd s.sp e).1, f := (spAdd s.sp e).2 }) :=
    exec_regs_next (by decide) rfl
  rw [spAdd_eq] at hadd hld
  exact ⟨⟨spells_addHlRr p, exec_regs_next (by decide) rfl⟩,
    fun w => ⟨s.pair_setPair_same p w, fun _ => s.pair_setPair_of_ne w⟩,
    ⟨spells_incRr p, exec_setPair_next (by decide) rfl⟩, ⟨spells_decRr p, exec_setPair_next (by decide) rfl⟩,
    ⟨⟨rfl, rfl⟩, hadd⟩, ⟨rfl, rfl⟩, hld⟩

end Sys2Proof.Machine
end

section
/-! PROOFS. Rotates and shifts (`42_rotate_shift.md`). The eight prefixed shifts are the rows of one table, on a register
and on the byte at HL, so each form is proved once for the row `k`. -/

namespace Sys2Proof.Machine

/-! ### The rows of the shift table (`30_encoding.md` R510) -/

/-- The row on a register: the operation in bits 5-3 of the second byte, the register in bits 2-0. -/
theorem spells_shiftRegInstr (k : Fin 8) (r : Reg8) :
    Spells [0xCB, BitVec.ofNat 8 (8 * k) + r.field] (shiftRegInstr r k) := by
  fin_cases k <;> cases r <;> exact ⟨rfl, rfl⟩

/-- The row on the byte at HL: 6 in bits 2-0 of the second byte. -/
theorem spells_shiftHlInstr (k : Fin 8) : Spells [0xCB, BitVec.ofNat 8 (0x06 + 8 * k)] (shiftHlInstr k) := by
  fin_cases k <;> exact ⟨rfl, rfl⟩

theorem exec_shiftRegInstr (k : Fin 8) (r : Reg8) (s : State) :
    exec (shiftRegInstr r k) s = s.conclude (s.shiftReg (shiftOpOf k) r) := by
  fin_cases k <;> rfl

theorem exec_shiftHlInstr (k : Fin 8) (s : State) :
    exec (shiftHlInstr k) s = s.conclude (s.shiftHl (shiftOpOf k)) := by
  fin_cases k <;> rfl

/-- The eight rows on a register: instruction, second byte less the register's field, operation. -/
def shiftRegRow (r : Reg8) (k : Fin 8) : Instr × Byte × ShiftOp :=
  (shiftRegInstr r k, BitVec.ofNat 8 (8 * k), shiftOpOf k)

/-- The eight rows on the byte at HL: instruction, second byte, operation. -/
def shiftHlRow (k : Fin 8) : Instr × Byte × ShiftOp :=
  (shiftHlInstr k, BitVec.ofNat 8 (0x06 + 8 * k), shiftOpOf k)

/-! ### The rotates and shifts -/

/-- Settles O7: a rotate of A is one rule, and a shift of a register is a row of the shift table. -/
theorem rotateShiftRegisterResults : Obligations.RotateShiftRegisterResults := by
  intro s r
  constructor
  · intro x hx
    fin_cases hx <;> exact ⟨⟨rfl, rfl⟩, rotateA_next s _⟩
  · refine (List.forall_mem_ofFn_iff (f := shiftRegRow r)).2 fun k => ⟨spells_shiftRegInstr k r, ?_⟩
    exact (exec_shiftRegInstr k r s).trans (shiftReg_next s (shiftOpOf k) r)

/-- Settles O8: a shift of the byte at HL is a row of the shift table, which writes back the byte read. -/
theorem shiftMemoryResults : Obligations.ShiftMemoryResults := fun s =>
  (List.forall_mem_ofFn_iff (f := shiftHlRow)).2 fun k =>
    ⟨spells_shiftHlInstr k, shiftHl_mod s _ (shiftOpOf k) (exec_shiftHlInstr k s)⟩

end Sys2Proof.Machine
end

section
/-! PROOFS. Bit test, set and reset (`43_bit.md`). The three operations are the groups 1, 2 and 3 of the prefixed space,
one table on a register and on the byte at HL; the model's masks and tested bit are the numbers the statement names. -/

namespace Sys2Proof.Machine

/-! ### The rows of the bit table (`30_encoding.md` R532) -/

/-- BIT, RES and SET of a bit of a register, in the order of their groups. -/
def bitRegInstr (k : BitVec 3) (r : Reg8) : Fin 3 → Instr
  | 0 => .bitR k r | 1 => .resR k r | 2 => .setR k r

/-- BIT, RES and SET of a bit of the byte at HL, in the order of their groups. -/
def bitHlInstr (k : BitVec 3) : Fin 3 → Instr
  | 0 => .bitHl k | 1 => .resHl k | 2 => .setHl k

/-- The row on a register: the group in bits 7-6 of the second byte, the bit number in bits 5-3, the register in
bits 2-0. -/
theorem spells_bitRegInstr (g : Fin 3) (k : BitVec 3) (r : Reg8) :
    Spells [0xCB, BitVec.ofNat 8 (0x40 + 0x40 * g) + 8 * BitVec.ofNat 8 k.toNat + r.field] (bitRegInstr k r g) := by
  obtain ⟨k⟩ := k
  fin_cases g <;> fin_cases k <;> cases r <;> exact ⟨rfl, rfl⟩

/-- The row on the byte at HL: 6 in bits 2-0 of the second byte. -/
theorem spells_bitHlInstr (g : Fin 3) (k : BitVec 3) :
    Spells [0xCB, BitVec.ofNat 8 (0x46 + 0x40 * g) + 8 * BitVec.ofNat 8 k.toNat] (bitHlInstr k g) := by
  obtain ⟨k⟩ := k
  fin_cases g <;> fin_cases k <;> exact ⟨rfl, rfl⟩

/-! ### The tested bit and the masks as numbers -/

/-- The flags of BIT (`43_bit.md` R910). -/
theorem bitFlags_eq (v : Byte) (k : BitVec 3) (f : Flags) :
    bitFlags v k f = { z := v.toNat / 2 ^ k.toNat % 2 == 0, n := false, h := true, c := f.c } := by
  have hz : (!v.getLsbD k.toNat) = (v.toNat / 2 ^ k.toNat % 2 == 0) := by
    rw [BitVec.getLsbD, Nat.testBit_eq_decide_div_mod_eq, Bool.eq_iff_iff, Bool.not_eq_true', decide_eq_false_iff_not,
      beq_iff_eq, Nat.mod_two_not_eq_one]
  rw [bitFlags, hz]

/-- The mask of SET (`43_bit.md` R914). -/
theorem bitMask_eq (k : BitVec 3) : bitMask k = BitVec.ofNat 8 (2 ^ k.toNat) :=
  congrArg (BitVec.ofNat 8) (Nat.one_shiftLeft k.toNat)

/-- The mask of RES (`43_bit.md` R912). -/
theorem not_bitMask_eq : ∀ k : BitVec 3, ~~~bitMask k = BitVec.ofNat 8 (255 - 2 ^ k.toNat) := by
  decide

/-! ### The forms on the byte at HL -/

/-- `BIT b,(HL)` reads the byte at HL and writes flags only (`43_bit.md` R911). -/
theorem bitHl_loads (k : BitVec 3) (s : State) :
    Loads (.bitHl k) s s.regs.hl fun v u => s.stepTo u 2 12 { s.regs with f := bitFlags v k s.regs.f } := by
  refine loads_intro (n := 2) rfl fun v u hu => ?_
  rw [hu, State.advance_eq_with s 2 (by decide)]
  rfl

/-- An instruction that writes `g v` back for the byte `v` at HL and leaves every register and flag (`43_bit.md` R913,
R915). -/
theorem modifyHl_modifies_keeping_regs {i : Instr} {s : State} {g : Byte → Byte}
    (h : exec i s = s.conclude (s.modifyHl 2 16 (fun v _ => g v) fun _ f => f)) :
    Modifies i s s.regs.hl g fun _ w => s.stepTo w 2 16 s.regs := by
  refine modifies_intro h (fun _ => rfl) fun v w hw => ?_
  rw [hw, State.advance_eq_with s 2 (by decide)]
  rfl

/-- Settles O9: each row is its bytes and its whole next state, the tested bit and the masks as the model has them. -/
theorem bitResSetResults : Obligations.BitResSetResults := by
  intro s k r
  simp only [← bitFlags_eq, ← bitMask_eq, ← not_bitMask_eq]
  exact ⟨⟨spells_bitRegInstr 0 k r, exec_regs_next (by decide) rfl⟩, ⟨spells_bitHlInstr 0 k, bitHl_loads k s⟩,
    ⟨spells_bitRegInstr 1 k r, exec_regs_next (by decide) rfl⟩,
    ⟨spells_bitHlInstr 1 k, modifyHl_modifies_keeping_regs rfl⟩,
    ⟨spells_bitRegInstr 2 k r, exec_regs_next (by decide) rfl⟩,
    spells_bitHlInstr 2 k, modifyHl_modifies_keeping_regs rfl⟩

end Sys2Proof.Machine
end

section
/-! PROOFS. Loads and stores (`44_load.md`). A load between registers leaves new registers or a new SP; the others are
one read or write at an address, after which HL+ and HL- move HL, and `LD (a16),SP` is two writes. -/

namespace Sys2Proof.Machine

/-! ### The rows of the loads (`30_encoding.md` R510) -/

/-- The destination in bits 5-3, the source in bits 2-0. -/
theorem spells_ldRR (dst src : Reg8) : Spells [0x40 + 8 * dst.field + src.field] (.ldRR dst src) := by
  cases dst <;> cases src <;> exact ⟨rfl, rfl⟩

/-- The destination in bits 5-3, the immediate in the second byte. -/
theorem spells_ldRN (dst : Reg8) (n : Byte) : Spells [0x06 + 8 * dst.field, n] (.ldRN dst n) := by
  cases dst <;> exact ⟨rfl, rfl⟩

/-- The destination in bits 5-3, 6 in bits 2-0. -/
theorem spells_ldRHl (dst : Reg8) : Spells [0x46 + 8 * dst.field] (.ldRHl dst) := by
  cases dst <;> exact ⟨rfl, rfl⟩

/-- 6 in bits 5-3, the source in bits 2-0. -/
theorem spells_ldHlR (src : Reg8) : Spells [0x70 + src.field] (.ldHlR src) := by
  cases src <;> exact ⟨rfl, rfl⟩

/-- A row whose second and third bytes are a word, low byte first. -/
theorem spells_word {op lo hi : Byte} {i : Instr} (hd : decode [op, lo, hi] = .ok (i, []))
    (he : encode i = [op, lo8 (hi ++ lo), hi8 (hi ++ lo)]) : Spells [op, lo, hi] i :=
  ⟨hd, by rw [he, lo8_append, hi8_append]⟩

/-- The pair in bits 5-4, the word low byte first. -/
theorem spells_ldRrN (p : Reg16) (lo hi : Byte) : Spells [0x01 + 16 * p.field, lo, hi] (.ldRrN p (hi ++ lo)) := by
  cases p <;> exact spells_word rfl rfl

/-! ### Loads between registers and from immediates -/

/-- Settles O10: each row leaves a new register, pair or SP and nothing else. -/
theorem registerLoadResults : Obligations.RegisterLoadResults := fun s dst src p n lo hi =>
  ⟨⟨spells_ldRR dst src, exec_regs_next (by decide) rfl⟩, ⟨spells_ldRN dst n, exec_regs_next (by decide) rfl⟩,
    ⟨spells_ldRrN p lo hi, exec_setPair_next (by decide) rfl⟩, ⟨rfl, rfl⟩, exec_regs_sp_next (by decide) rfl⟩

/-! ### Loads from memory -/

/-- `LD r,(HL)` leaves the byte read in the register, the address being the HL before it (`44_load.md` R1011). -/
theorem ldRHl_loads (dst : Reg8) (s : State) :
    Loads (.ldRHl dst) s s.regs.hl fun v u => s.stepTo u 1 8 (s.regs.set dst v) := by
  refine loads_intro (n := 1) rfl fun v u hu => ?_
  rw [hu, State.advance_eq_with s 1 (by decide)]
  rfl

/-- A load of A from HL that then moves HL to `w` (`44_load.md` R1022, R1023). -/
theorem loadA_setHl_loads {i : Instr} {s : State} {w : Word}
    (h : exec i s = s.conclude (s.loadA 1 8 s.regs.hl >>= fun t => .ok (t.setHl w))) :
    Loads i s s.regs.hl fun v u => s.stepTo u 1 8 { s.regs with a := v, h := hi8 w, l := lo8 w } := by
  rw [State.loadA, bind_assoc] at h
  refine loads_intro h fun v u hu => ?_
  rw [hu, State.advance_eq_with s 1 (by decide)]
  rfl

/-- Settles O11: every row but `LD r,(HL)` is a load of A, and two of these then move HL. -/
theorem memoryLoadResults : Obligations.MemoryLoadResults := fun s dst _n _lo _hi =>
  ⟨⟨spells_ldRHl dst, ldRHl_loads dst s⟩, ⟨⟨rfl, rfl⟩, loadA_loads _ s 1 8 (by decide) _ rfl⟩,
    ⟨⟨rfl, rfl⟩, loadA_loads _ s 1 8 (by decide) _ rfl⟩, ⟨⟨rfl, rfl⟩, loadA_setHl_loads rfl⟩,
    ⟨⟨rfl, rfl⟩, loadA_setHl_loads rfl⟩, ⟨spells_word rfl rfl, loadA_loads _ s 3 16 (by decide) _ rfl⟩,
    ⟨⟨rfl, rfl⟩, loadA_loads _ s 2 12 (by decide) _ rfl⟩, ⟨rfl, rfl⟩, loadA_loads _ s 1 8 (by decide) _ rfl⟩

/-! ### Stores -/

/-- A store of A at HL that then moves HL to `w` (`44_load.md` R1026, R1027). -/
theorem storeByte_setHl_stores {i : Instr} {s : State} {v : Byte} {w : Word}
    (h : exec i s = s.conclude (s.storeByte 1 8 s.regs.hl v >>= fun t => .ok (t.setHl w))) :
    StoresByte i s s.regs.hl v fun u => s.stepTo u 1 8 { s.regs with h := hi8 w, l := lo8 w } := by
  rw [State.storeByte, bind_assoc] at h
  refine stores_intro h fun u hu => ?_
  rw [hu, State.advance_eq_with s 1 (by decide)]
  rfl

/-- `LD (a16),SP` writes SP's low byte at the address, then its high byte at the next (`44_load.md` R1041). -/
theorem ldA16Sp_storesTwo (nn : Word) (s : State) :
    StoresTwo (.ldA16Sp nn) s nn (lo8 s.sp) (nn + 1) (hi8 s.sp) fun w => s.stepTo w 3 20 s.regs := by
  have hfirst : exec (.ldA16Sp nn) s = s.conclude ((s.advance 3).write nn (lo8 s.sp) >>= fun t =>
      t.write (nn + 1) (hi8 s.sp) >>= fun t => .ok (t.cost 20)) := rfl
  rw [State.write_advance] at hfirst
  have hsecond {u : State} (hu : s.write nn (lo8 s.sp) = .ok u) : exec (.ldA16Sp nn) s =
      s.conclude ((u.write (nn + 1) (hi8 s.sp)).map (·.withCpu (s.advance 3)) >>= fun t => .ok (t.cost 20)) := by
    rw [hfirst, hu, ← State.write_withCpu]
    rfl
  refine ⟨fun u w hu hw => ?_, fun e he => ?_, fun u e hu he => ?_⟩
  · rw [hsecond hu, hw, State.write_cpu hw, State.write_cpu hu, State.advance_eq_with s 3 (by decide)]
    rfl
  · rw [hfirst, he]
    rfl
  · rw [hsecond hu, he]
    rfl

/-- Settles O12: every row but `LD (a16),SP` is a store of one byte, and two of these then move HL. -/
theorem storeResults : Obligations.StoreResults := fun s src _n lo hi =>
  ⟨⟨spells_ldHlR src, storeByte_stores _ s 1 8 (by decide) _ _ rfl⟩,
    ⟨⟨rfl, rfl⟩, storeByte_stores _ s 2 12 (by decide) _ _ rfl⟩,
    ⟨⟨rfl, rfl⟩, storeByte_stores _ s 1 8 (by decide) _ _ rfl⟩,
    ⟨⟨rfl, rfl⟩, storeByte_stores _ s 1 8 (by decide) _ _ rfl⟩, ⟨⟨rfl, rfl⟩, storeByte_setHl_stores rfl⟩,
    ⟨⟨rfl, rfl⟩, storeByte_setHl_stores rfl⟩, ⟨spells_word rfl rfl, storeByte_stores _ s 3 16 (by decide) _ _ rfl⟩,
    ⟨⟨rfl, rfl⟩, storeByte_stores _ s 2 12 (by decide) _ _ rfl⟩,
    ⟨⟨rfl, rfl⟩, storeByte_stores _ s 1 8 (by decide) _ _ rfl⟩, spells_word rfl rfl, ldA16Sp_storesTwo (hi ++ lo) s⟩

end Sys2Proof.Machine
end

section
/-! PROOFS. Control transfers (`45_control.md`). A jump, a call and a return each come unconditional and on a condition;
each shape on a condition is said once, taken and not. RETI is RET with IME set. -/

namespace Sys2Proof.Machine

/-! ### The rows of the control transfers (`30_encoding.md` R510) -/

/-- The condition in bits 4-3, the target low byte first. -/
theorem spells_jpCc (cc : Cond) (lo hi : Byte) : Spells [0xC2 + 8 * cc.field, lo, hi] (.jpCc cc (hi ++ lo)) := by
  cases cc <;> exact spells_word rfl rfl

/-- The condition in bits 4-3, the displacement in the second byte. -/
theorem spells_jrCc (cc : Cond) (e : Byte) : Spells [0x20 + 8 * cc.field, e] (.jrCc cc e) := by
  cases cc <;> exact ⟨rfl, rfl⟩

/-- The condition in bits 4-3, the target low byte first. -/
theorem spells_callCc (cc : Cond) (lo hi : Byte) : Spells [0xC4 + 8 * cc.field, lo, hi] (.callCc cc (hi ++ lo)) := by
  cases cc <;> exact spells_word rfl rfl

/-- The condition in bits 4-3. -/
theorem spells_retCc (cc : Cond) : Spells [0xC0 + 8 * cc.field] (.retCc cc) := by
  cases cc <;> exact ⟨rfl, rfl⟩

/-- The number of the restart in bits 5-3. -/
theorem spells_rst (t : BitVec 3) : Spells [0xC7 + 8 * BitVec.ofNat 8 t.toNat] (.rst t) := by
  obtain ⟨t⟩ := t
  fin_cases t <;> exact ⟨rfl, rfl⟩

/-! ### On a condition -/

section OnCondition

variable {taken : Prop} {b : Bool} {i : Instr} {s : State} {n yes no : Nat} {target : Word}

/-- A condition is taken or not as the model's test of it is true or false. -/
theorem taken_or_not {ifTaken ifNot : Prop} (htaken : taken ↔ b = true) (htrue : b = true → ifTaken)
    (hfalse : b = false → ifNot) : (taken → ifTaken) ∧ (¬taken → ifNot) :=
  ⟨fun h => htrue (htaken.1 h), fun h => hfalse (Bool.eq_false_of_not_eq_true (mt htaken.2 h))⟩

/-- A jump on the condition `b`: taken it leaves pc at the target, failed only its bytes and its cycles
(`45_control.md` R1111). -/
theorem jumpIf_taken_or_not (htaken : taken ↔ b = true) (hn : 1 ≤ n)
    (h : exec i s = s.conclude (s.jumpIf n b target yes no)) :
    (taken → exec i s = .next { s.stepTo s n yes s.regs with pc := target }) ∧
      (¬taken → exec i s = .next (s.stepTo s n no s.regs)) := by
  refine taken_or_not htaken ?_ ?_ <;> rintro rfl
  · exact h.trans (jumpIf_next s n hn target yes no).1
  · exact h.trans (jumpIf_next s n hn target yes no).2

/-- A call on the condition `b`: taken it pushes the address of the next instruction, failed it pushes nothing
(`45_control.md` R1116). -/
theorem callIf_taken_or_not (htaken : taken ↔ b = true) (hn : 1 ≤ n)
    (h : exec i s = s.conclude (s.callIf n b target yes no)) :
    (taken → Pushes i s (s.nextPc n) fun w => { s.stepTo w n yes s.regs with pc := target }) ∧
      (¬taken → exec i s = .next (s.stepTo s n no s.regs)) := by
  refine taken_or_not htaken ?_ ?_ <;> rintro rfl
  · exact callIf_pushes i s n hn target yes no h
  · exact exec_regs_next hn h

/-- A return on the condition `b`: taken it pops pc, failed it pops nothing (`45_control.md` R1118). -/
theorem returnIf_taken_or_not (htaken : taken ↔ b = true) (h : exec i s = s.conclude (s.returnIf b yes no)) :
    (taken → Pops i s fun v w => { s.stepTo w 1 yes s.regs with pc := v }) ∧
      (¬taken → exec i s = .next (s.stepTo s 1 no s.regs)) := by
  refine taken_or_not htaken ?_ ?_ <;> rintro rfl
  · exact returnIf_pops i s yes no h
  · exact exec_regs_next (by decide) h

end OnCondition

/-! ### Jumps -/

/-- The target of a relative jump, from the address of the next instruction (`45_control.md` R1113). -/
theorem State.relativeTarget_eq (s : State) (e : Byte) :
    (s.advance 2).pc + sext16 e = BitVec.ofInt 16 ((s.nextPc 2).toNat + e.toInt) := by
  rw [State.advance_pc_eq s 2 (by decide), add_sext16]

/-- Settles O13: each row is a jump, on a condition or not; the relative target is the model's as a number. -/
theorem jumpResults : Obligations.JumpResults := by
  intro s cc lo hi e
  simp only [← State.relativeTarget_eq]
  exact ⟨⟨spells_word rfl rfl, (jumpIf_next s 3 (by decide) _ 16 16).1⟩,
    ⟨spells_jpCc cc lo hi, jumpIf_taken_or_not (condHolds_iff cc s.regs.f) (by decide) rfl⟩,
    ⟨⟨rfl, rfl⟩, (jumpIf_next s 1 (by decide) _ 4 4).1⟩,
    ⟨⟨rfl, rfl⟩, (jumpIf_next s 2 (by decide) _ 12 12).1⟩,
    spells_jrCc cc e, jumpIf_taken_or_not (condHolds_iff cc s.regs.f) (by decide) rfl⟩

/-! ### Calls and restarts -/

/-- Settles O14: each row is a call, on a condition or not; a restart is one whose target is in its byte. -/
theorem callRstResults : Obligations.CallRstResults := fun s cc t lo hi =>
  ⟨⟨spells_word rfl rfl, callIf_pushes _ s 3 (by decide) _ 24 24 rfl⟩,
    ⟨spells_callCc cc lo hi, callIf_taken_or_not (condHolds_iff cc s.regs.f) (by decide) rfl⟩,
    spells_rst t, callIf_pushes _ s 1 (by decide) _ 16 16 rfl⟩

/-! ### Returns -/

/-- `RETI` pops pc and sets IME, whatever the delay of EI (`45_control.md` R1119). -/
theorem reti_pops (s : State) : Pops .reti s fun v w => { s.stepTo w 1 16 s.regs with pc := v, ime := true } := by
  have h : exec .reti s = s.conclude ((s.advance 1).returnFromInterrupt >>= fun t => .ok (t.cost 16)) := rfl
  rw [State.returnFromInterrupt, bind_assoc] at h
  refine pops_intro h fun v w hw => ?_
  rw [hw, State.advance_eq_with s 1 (by decide)]
  rfl

/-- Settles O15: RET and RET cc are returns, on a condition or not, and RETI also sets IME. -/
theorem returnResults : Obligations.ReturnResults := fun s cc =>
  ⟨⟨⟨rfl, rfl⟩, returnIf_pops _ s 16 16 rfl⟩,
    ⟨spells_retCc cc, returnIf_taken_or_not (condHolds_iff cc s.regs.f) rfl⟩, ⟨rfl, rfl⟩, reti_pops s⟩

end Sys2Proof.Machine
end

section
/-! PROOFS. PUSH and POP (`46_stack.md`). Each is said once for every pair, by the model's read and write of a stack pair;
the pairs differ in the registers named, and AF in the bits of F. -/

namespace Sys2Proof.Machine

/-! ### The rows with a stack pair in bits 5-4 (`30_encoding.md` R510) -/

theorem spells_push (q : Reg16Stk) : Spells [0xC5 + 16 * q.field] (.push q) := by
  cases q <;> exact ⟨rfl, rfl⟩

theorem spells_pop (q : Reg16Stk) : Spells [0xC1 + 16 * q.field] (.pop q) := by
  cases q <;> exact ⟨rfl, rfl⟩

/-! ### Whole instructions -/

/-- `PUSH` leaves the registers and pushes the pair (`46_stack.md` R1210). -/
theorem push_pushes (q : Reg16Stk) (s : State) : Pushes (.push q) s (s.stkPair q) fun w => s.stepTo w 1 16 s.regs := by
  have h : exec (.push q) s = s.conclude ((s.advance 1).push16 (s.stkPair q) >>= fun t => .ok (t.cost 16)) := rfl
  refine pushes_intro h fun w hw => ?_
  rw [hw, State.advance_eq_with s 1 (by decide)]
  rfl

/-- `POP` leaves the registers a write of the pair makes (`46_stack.md` R1211). -/
theorem pop_pops (q : Reg16Stk) (s : State) :
    Pops (.pop q) s fun v w => s.stepTo w 1 12 (s.setStkPair q v).regs := by
  have h : exec (.pop q) s = s.conclude ((s.advance 1).pop16 >>= fun x => .ok ((x.2.setStkPair q x.1).cost 12)) := rfl
  refine pops_intro h fun v w hw => ?_
  rw [hw, State.advance_eq_with s 1 (by decide)]
  cases q <;> rfl

/-- Settles O16: each pair is two registers; in AF the low one is F, whose bits 7-4 are the flags. -/
theorem pushPopResults : Obligations.PushPopResults := by
  intro s q
  refine ⟨⟨spells_push q, ?_⟩, spells_pop q, ?_⟩
  · have h := push_pushes q s
    cases q with
    | bc | de | hl => exact h
    | af =>
      rw [State.stkPair, Regs.af, Flags.toByte_eq] at h
      exact h
  · have h := pop_pops q s
    cases q with
    | bc | de | hl => exact h
    | af =>
      simp only [State.setStkPair, Flags.ofByte_lo8] at h
      exact h

end Sys2Proof.Machine
end

section
/-! PROOFS. System instructions (`47_system.md`): NOP, DI and EI, the byte 0xCB, the illegal opcodes, and EI's delay
through a step. -/

namespace Sys2Proof.Machine

/-! ### NOP, DI and EI -/

/-- Settles O17: each is one byte that leaves the registers; DI and EI write IME and the count of EI's delay alone. -/
theorem nopDiEiResults : Obligations.NopDiEiResults := by
  intro s
  refine ⟨⟨⟨rfl, rfl⟩, exec_regs_next (by decide) rfl⟩, ⟨⟨rfl, rfl⟩, ?_⟩, ⟨rfl, rfl⟩, ?_⟩
  · show s.conclude (.ok ({ s.advance 1 with ime := false, eiDelay := 0 }.cost 4)) = _
    rw [State.advance_eq_with s 1 (by decide)]
    rfl
  · show s.conclude (.ok ({ s.advance 1 with eiDelay := if s.eiDelay = 0 then 2 else s.eiDelay }.cost 4)) = _
    rw [State.advance_eq_with s 1 (by decide)]
    simp only [Fin.val_eq_zero_iff]
    rfl

/-! ### The secondary space (`30_encoding.md` R532) -/

theorem shiftRegInstr_length (k : Fin 8) (r : Reg8) : (shiftRegInstr r k).length = 2 := by
  fin_cases k <;> rfl

theorem shiftHlInstr_length (k : Fin 8) : (shiftHlInstr k).length = 2 := by
  fin_cases k <;> rfl

/-- An instruction of the secondary space has two bytes. -/
theorem decodeSecondary_length (op2 : Byte) : (decodeSecondary op2).length = 2 := by
  unfold decodeSecondary
  split
  · exact shiftRegInstr_length _ _
  · exact shiftHlInstr_length _
  all_goals rfl

theorem decodeSecondary_wellFormed (op2 : Byte) : (decodeSecondary op2).wellFormed = true := by
  refine bne_iff_ne.2 fun h => ?_
  have hlen := decodeSecondary_length op2
  rw [h] at hlen
  cases hlen

theorem decode_prefixed (op2 : Byte) : decode [0xCB, op2] = .ok (decodeSecondary op2, []) := rfl

/-- An instruction of the secondary space does what 0xCB runs for its second byte. -/
theorem exec_decodeSecondary (op2 : Byte) (s : State) :
    exec (decodeSecondary op2) s = s.conclude (s.runSecondary op2) := by
  unfold decodeSecondary State.runSecondary
  rcases quarterField op2 with ⟨q, hq⟩
  interval_cases q <;> cases reg8Of (zField op2)
  · exact exec_shiftHlInstr _ s
  · exact exec_shiftRegInstr _ _ s
  all_goals rfl

/-- 0xCB reads the byte after it and runs what that names (`47_system.md` R1315). -/
theorem exec_prefixCb {s u : State} {b : Byte} (h : s.read s.operandAddr = .ok (b, u)) :
    exec .prefixCb s = s.conclude (u.runSecondary b) := by
  show s.conclude (s.read s.operandAddr >>= fun x => x.2.runSecondary x.1) = _
  rw [h]
  rfl

/-- The second bytes of the register shifts: the operation in bits 5-3, the register in bits 2-0. -/
theorem runSecondary_shiftReg (k : Fin 8) (r : Reg8) (s : State) :
    s.runSecondary (BitVec.ofNat 8 (8 * k) + r.field) = s.shiftReg (shiftOpOf k) r := by
  fin_cases k <;> cases r <;> rfl

/-! ### The marks under the secondary space -/

/-- The marks are `f` and `r`. -/
def MarksAre (f : Option Fatal) (r : Option Unsupported) (s : State) : Prop := s.fatal = f ∧ s.refused = r

section Marks
variable {f : Option Fatal} {r : Option Unsupported} {s : State}

theorem MarksAre.read_bind {a : Word} {g : Byte × State → Eff State} (hs : MarksAre f r s)
    (hg : ∀ b u, MarksAre f r u → Holds (MarksAre f r) (g (b, u))) : Holds (MarksAre f r) (s.read a >>= g) := by
  intro t h
  cases hr : s.read a with
  | error e => rw [hr] at h; cases h
  | ok x =>
    rw [hr] at h
    refine hg x.1 x.2 ?_ t h
    rw [State.read_ok (b := x.1) hr]
    exact hs

theorem MarksAre.modifyHl (len cycles : Nat) (g : Byte → Flags → Byte) (ff : Byte → Flags → Flags)
    (hs : MarksAre f r s) : Holds (MarksAre f r) (s.modifyHl len cycles g ff) :=
  MarksAre.read_bind (s := s.advance len) hs fun _ u hu =>
    holds_bind (fun w hw => by rw [State.write_cpu hw]; exact hu) fun _ hw => holds_ok hw

/-- No instruction of the secondary space raises a fault (`47_system.md` R1315). -/
theorem MarksAre.runSecondary (op2 : Byte) (hs : MarksAre f r s) : Holds (MarksAre f r) (s.runSecondary op2) := by
  unfold State.runSecondary
  split
  case h_2 | h_6 | h_8 => exact hs.modifyHl _ _ _ _
  case h_4 => exact MarksAre.read_bind (s := s.advance 2) hs fun _ _ hu => holds_ok hu
  all_goals exact holds_ok hs

end Marks

/-- The second byte of a register shift, less the register's field, and the operation. -/
def shiftByteRow (k : Fin 8) : Byte × ShiftOp := (BitVec.ofNat 8 (8 * k), shiftOpOf k)

/-- Settles O19: what 0xCB runs for a second byte is what the instruction that byte names does, on a state
that the read left but for the draw counter. -/
theorem prefixRunsSecondary : Obligations.PrefixRunsSecondary := by
  intro s u b hread
  have hu : u = { s with draws := u.draws } := State.read_ok hread
  have hmarks : Holds (MarksAre s.fatal s.refused) (u.runSecondary b) :=
    MarksAre.runSecondary b (by rw [hu]; exact ⟨rfl, rfl⟩)
  rw [exec_prefixCb hread]
  refine ⟨⟨_, decode_prefixed b, decodeSecondary_wellFormed b⟩, ?_, fun i t hi ht => ?_, fun r => ?_⟩
  · cases he : u.runSecondary b with
    | ok t => exact ⟨t, rfl, (hmarks t he).1⟩
    | error e => exact ⟨_, rfl, rfl⟩
  · rw [decode_prefixed] at hi
    cases hi
    rw [exec_decodeSecondary] at ht
    cases he : u.runSecondary b with
    | ok w =>
      obtain ⟨-, hw⟩ := hmarks w he
      rw [he] at ht
      cases ht
      exact ⟨fun _ => rfl, fun hs hr => absurd (hw.trans hs) hr⟩
    | error e =>
      rw [he] at ht
      cases ht
      exact ⟨fun hr => (Option.some_ne_none e hr).elim, fun _ _ => rfl⟩
  · refine (List.forall_mem_ofFn_iff (f := shiftByteRow)).2 fun k hb => ?_
    rw [hb, shiftByteRow, runSecondary_shiftReg]
    refine (shiftReg_next u (shiftOpOf k) r).trans ?_
    rw [hu]
    rfl

/-! ### A step that executes an instruction -/

/-- No stopped or halted step and no dispatch comes before an instruction (`47_system.md` R1300). -/
theorem State.idle_executes {s : State} (h : s.Executes) : s.idle = none := by
  obtain ⟨hstop, hhalt, htake⟩ := h
  have hno : ¬(s.ime && s.pending != 0) = true := by simpa using htake
  simp only [State.idle, hstop, hhalt, hno, Bool.false_eq_true, if_false]

/-- The step of a machine that executes the instruction it fetches. -/
theorem step_executes {s u : State} {i : Instr} (hlive : s.Live) (hexec : s.Executes) (hfetch : s.fetch = .ok (i, u)) :
    step s = s.afterCpu (afterInstr (exec i u)) := by
  rw [step_live hlive, State.idle_executes hexec]
  simp only [State.executeOne, hfetch]

/-- The step of an instruction of one byte, from the byte at pc. -/
theorem step_of_byte {s : State} {i : Instr} {op : Byte} (hlive : s.Live) (hexec : s.Executes)
    (hop : s.peek s.pc = .byte op) (hd : decode [op] = .ok (i, [])) (hw : i.wellFormed = true) :
    step s = s.afterCpu (afterInstr (exec i s)) := by
  refine step_executes hlive hexec (State.fetch_decoded s i [op] hd hw fun k hk => ?_)
  rw [Nat.lt_one_iff.1 hk]
  exact hop

/-! ### The illegal opcodes -/

/-- A byte is its fields (`30_encoding.md` R502). -/
theorem byte_eq_fields (op : Byte) : op = op.extractLsb' 6 2 ++ (op.extractLsb' 3 3 ++ op.extractLsb' 0 3) := by
  rw [BitVec.extractLsb'_append_extractLsb'_eq_extractLsb' (by decide),
    BitVec.extractLsb'_append_extractLsb'_eq_extractLsb' (by decide), BitVec.extractLsb'_eq_self]

/-- The first byte of an instruction of the primary space is its opcode, whatever the bytes after it. -/
theorem encode_decodePrimary_head (op n : Byte) (nn : Word) : (encode (decodePrimary op n nn)).head? = some op := by
  rw [byte_eq_fields op]
  obtain ⟨quarter⟩ := op.extractLsb' 6 2
  obtain ⟨y⟩ := op.extractLsb' 3 3
  obtain ⟨z⟩ := op.extractLsb' 0 3
  fin_cases quarter <;> fin_cases z <;> fin_cases y <;> rfl

/-- Each is a one-byte instruction. -/
theorem spells_illegal : ∀ x ∈ illegalOpcodes, Spells [x.2] x.1 ∧ x.1.length = 1 ∧ x.1.wellFormed = true := by
  intro x hx
  fin_cases hx <;> exact ⟨⟨rfl, rfl⟩, rfl, rfl⟩

theorem decodeBytes_illegal (b2 b3 : Byte) : ∀ x ∈ illegalOpcodes, decodeBytes x.2 b2 b3 = x.1 := by
  intro x hx
  fin_cases hx <;> rfl

theorem exec_illegal (s : State) : ∀ x ∈ illegalOpcodes, exec x.1 s = .next (s.raiseIllegal x.2) := by
  intro x hx
  fin_cases hx <;> rfl

/-- Only an illegal opcode decodes to an illegal instruction: the prefixed instructions have two bytes, and the others
begin with their opcode. -/
theorem eq_of_decodeBytes_illegal {op b2 b3 : Byte} {x : Instr × Byte} (hx : x ∈ illegalOpcodes)
    (h : decodeBytes op b2 b3 = x.1) : op = x.2 := by
  obtain ⟨⟨-, henc⟩, hlen, -⟩ := spells_illegal x hx
  by_cases hop : op = 0xCB#8
  · rw [decodeBytes, if_pos hop] at h
    rw [← h, decodeSecondary_length] at hlen
    cases hlen
  · rw [decodeBytes, if_neg hop] at h
    have hhead := encode_decodePrimary_head op b2 (b3 ++ b2)
    rw [h, henc] at hhead
    exact (Option.some.inj hhead).symm

/-- Settles O20: the eleven rows of the table are the only way to an illegal instruction, and its mark is all that a
step of one commits. -/
theorem illegalOpcodesFault : Obligations.IllegalOpcodesFault := by
  refine ⟨fun op b2 b3 i => ⟨fun h => ⟨decodeBytes_illegal b2 b3 _ h, List.mem_map_of_mem h⟩, ?_⟩, fun s x hx => ?_⟩
  · rintro ⟨hd, hi⟩
    obtain ⟨x, hx, rfl⟩ := List.mem_map.1 hi
    rw [eq_of_decodeBytes_illegal hx hd]
    exact hx
  · obtain ⟨hspells, -, hw⟩ := spells_illegal x hx
    refine ⟨hspells, exec_illegal s x hx, fun hlive hexec hop => ?_, rfl⟩
    rw [step_of_byte hlive hexec hop hspells.1 hw, exec_illegal s x hx]
    rfl

/-! ### EI's delay through a step -/

/-- The devices leave the CPU's own part alone. -/
theorem State.elapse_cpu (s : State) : s.elapse = s.elapse.withCpu s := by
  unfold State.elapse State.serialAdvance State.serialEvent
  split_ifs <;> rfl

@[simp] theorem State.elapse_eiDelay (s : State) : s.elapse.eiDelay = s.eiDelay := by
  rw [State.elapse_cpu]
  rfl

@[simp] theorem State.elapse_fatal (s : State) : s.elapse.fatal = s.fatal := by
  rw [State.elapse_cpu]
  rfl

@[simp] theorem State.elapse_refused (s : State) : s.elapse.refused = s.refused := by
  rw [State.elapse_cpu]
  rfl

/-- The count of EI's delay after it is counted down. -/
theorem State.countdown_eiDelay (s : State) : s.countdown.eiDelay = if s.eiDelay.val = 2 then 1 else 0 := by
  rw [State.countdown_eq]
  rfl

/-- The CPU's part of a step that raised no mark raised none itself. -/
theorem State.afterCpu_unmarked {s t : State} {o : Host.Outcome State Fault Refusal} (h : s.afterCpu o = .next t)
    (hf : t.fatal = none) (hr : t.refused = none) :
    ∃ u, o = .next u ∧ u.fatal = none ∧ u.refused = none ∧ t = u.elapse := by
  cases o with
  | fault f => cases h
  | refused r => cases h
  | next u =>
    by_cases hm : u.fatal ≠ none ∨ u.refused ≠ none
    · rw [State.afterCpu_marked s hm] at h
      cases h
      exact hm.elim (absurd hf) (absurd hr)
    · obtain ⟨huf, hur⟩ : u.fatal = none ∧ u.refused = none := by simpa using hm
      rw [State.afterCpu_clean s huf hur] at h
      cases h
      exact ⟨u, rfl, huf, hur, u.elapse_eq.symm⟩

/-- A step of an instruction that raises no mark: execute, count down, let the devices advance. -/
theorem step_executes_unmarked {s t u : State} {i : Instr} (hlive : s.Live) (hexec : s.Executes)
    (hfetch : s.fetch = .ok (i, u)) (h : step s = .next t) (hf : t.fatal = none) (hr : t.refused = none) :
    ∃ w, exec i u = .next w ∧ w.refused = none ∧ t = w.countdown.elapse := by
  rw [step_live hlive, State.idle_executes hexec] at h
  obtain ⟨v, hv, hvf, hvr, rfl⟩ := State.afterCpu_unmarked h hf hr
  obtain ⟨j, u', w, hj, hw, -, hwr, rfl⟩ := State.executeOne_unmarked hv hvf hvr
  cases hfetch.symm.trans hj
  exact ⟨w, hw, hwr, rfl⟩

/-- What follows an instruction that raised no mark. -/
theorem State.afterCpu_afterInstr (s : State) {w : State} (hf : w.fatal = none) (hr : w.refused = none) :
    s.afterCpu (afterInstr (.next w)) = .next w.countdown.elapse := by
  have hcount : afterInstr (.next w) = .next w.countdown := by
    rw [afterInstr, if_neg (by simp [hf, hr])]
  rw [hcount, State.countdown_eq, State.afterCpu_clean s (t := w.delayed) hf hr]
  rfl

/-- The step of EI with no delay running leaves the marks and IME, and one more instruction to count. -/
theorem step_ei {s : State} (hlive : s.Live) (hexec : s.Executes) (hdelay : s.eiDelay.val = 0)
    (hop : s.peek s.pc = .byte 0xFB) :
    ∃ t, step s = .next t ∧ t.fatal = none ∧ t.refused = none ∧ t.ime = s.ime ∧ t.eiDelay.val = 1 := by
  obtain ⟨-, -, ⟨hdecode, -⟩, hei⟩ := nopDiEiResults s
  have ⟨hf, hr, _⟩ := hlive
  have hstep := step_of_byte hlive hexec hop hdecode rfl
  rw [hei, if_pos hdelay] at hstep
  refine ⟨_, hstep.trans (s.afterCpu_afterInstr hf hr), ?_⟩
  rw [State.countdown_eq, State.elapse_fatal, State.elapse_refused, State.elapse_ime, State.elapse_eiDelay]
  exact ⟨hf, hr, rfl, rfl⟩

/-- A stopped or halted step leaves IME and the count of EI's delay. -/
theorem step_idle_ime {s t : State} (hidle : s.stopped = true ∨ s.halted = true) (h : step s = .next t) :
    t.ime = s.ime ∧ t.eiDelay = s.eiDelay := by
  rcases step_cases h with ⟨f, r, rfl⟩ | ⟨-, rfl⟩ | ⟨-, -, rfl⟩ | ⟨hstop, hhalt, -⟩ | ⟨⟨hstop, hhalt, -⟩, -⟩
  · exact ⟨rfl, rfl⟩
  · exact ⟨State.elapse_ime _, State.elapse_eiDelay _⟩
  · exact ⟨State.elapse_ime _, State.elapse_eiDelay _⟩
  all_goals simp [hstop, hhalt] at hidle

/-- Settles O31: the count is 2 when EI executes and 1 after its step; the next instruction finds it 1 and sets IME,
unless it is DI, which clears both. -/
theorem eiTakesEffectAfterNext : Obligations.EiTakesEffectAfterNext := by
  refine ⟨fun s => step_ei, fun s t => step_idle_ime, fun s t u i hlive hexec hdelay hfetch h hf hr => ?_⟩
  obtain ⟨w, hw, hwr, rfl⟩ := step_executes_unmarked hlive hexec hfetch h hf hr
  obtain ⟨him, hd⟩ := exec_ime hw hwr
  have hud : u.eiDelay.val = 1 := by rw [State.fetch_draws hfetch]; exact hdelay
  rw [State.elapse_ime, State.elapse_eiDelay, State.countdown_ime, State.countdown_eiDelay, him, hd]
  by_cases hdi : i = .di
  · subst hdi
    exact ⟨rfl, rfl⟩
  · have hone := (delayAfter_eq_one u.eiDelay hdi).2 hud
    simp [hone, hdi]

end Sys2Proof.Machine
end

section
/-! PROOFS. Interrupt dispatch (`60_exceptions.md` R1411). -/

namespace Sys2Proof.Machine

/-- The pending enabled interrupts, one by one (`60_exceptions.md` R1404). -/
theorem State.pending_getLsbD (s : State) {k : Nat} (hk : k < 5) :
    s.pending.getLsbD k = (s.ie.getLsbD k && s.ifl.getLsbD k) := by
  rw [State.pending, BitVec.getLsbD_and, BitVec.getLsbD_extractLsb', Nat.zero_add, decide_eq_true hk, Bool.true_and]

/-- The interrupt that dispatch takes (`60_exceptions.md` R1401, R1411). -/
theorem State.lowestBit_pending {s : State} {k : Nat} (hk : k < 5) (hie : s.ie.getLsbD k = true)
    (hif : s.ifl.getLsbD k = true) (hlow : ∀ j, j < k → ¬(s.ie.getLsbD j = true ∧ s.ifl.getLsbD j = true)) :
    lowestBit s.pending = k := by
  refine lowestBit_eq _ k hk ?_ fun j hj => ?_
  · rw [s.pending_getLsbD hk, hie, hif]
    rfl
  · rw [s.pending_getLsbD (by omega), Bool.eq_false_iff, Ne, Bool.and_eq_true]
    exact hlow j hj

/-- Interrupt `k` acknowledged: its flag and IME cleared, EI's delay and the HALT bug spent (`60_exceptions.md` R1411). -/
def State.acknowledged (s : State) (k : Nat) : State :=
  { s with ifl := s.ifl &&& ~~~(1#5 <<< k), ime := false, eiDelay := 0, haltBug := false }

section Dispatch
variable {s : State} {k : Nat}

theorem State.dispatch_ok {u w : State} (hk : lowestBit s.pending = k)
    (hu : (s.acknowledged k).write (s.sp - 1) (hi8 s.returnAddr) = .ok u)
    (hw : u.write (s.sp - 2) (lo8 s.returnAddr) = .ok w) :
    s.dispatch = .ok { w with sp := s.sp - 2, pc := BitVec.ofNat 16 (0x40 + 8 * k), cycles := 20 } := by
  have hpush : (s.acknowledged k).push16 s.returnAddr = .ok { w with sp := s.sp - 2 } := by
    rw [State.push16_eq]
    simp only [show (s.acknowledged k).sp = s.sp from rfl, hu, hw]
  subst hk
  show ((s.acknowledged _).push16 s.returnAddr >>= _) = _
  rw [hpush]
  rfl

theorem State.dispatch_error {e : Unsupported} (hk : lowestBit s.pending = k)
    (he : (s.acknowledged k).write (s.sp - 1) (hi8 s.returnAddr) = .error e ∨
      ∃ u, (s.acknowledged k).write (s.sp - 1) (hi8 s.returnAddr) = .ok u ∧
        u.write (s.sp - 2) (lo8 s.returnAddr) = .error e) :
    s.dispatch = .error e := by
  have hpush : (s.acknowledged k).push16 s.returnAddr = .error e := by
    rw [State.push16_eq]
    rcases he with h | ⟨u, hu, h⟩
    · simp only [show (s.acknowledged k).sp = s.sp from rfl, h]
    · simp only [show (s.acknowledged k).sp = s.sp from rfl, hu, h]
  subst hk
  show ((s.acknowledged _).push16 s.returnAddr >>= _) = _
  rw [hpush]
  rfl

/-- A step that takes an interrupt (`47_system.md` R1300, `60_exceptions.md` R1411). -/
theorem step_dispatch (hlive : s.Live) (hstop : s.stopped = false) (hhalt : s.halted = false) (hime : s.ime = true)
    (hpend : s.Pending) : step s = s.afterCpu (s.conclude s.dispatch) := by
  have hidle : s.idle = some (s.conclude s.dispatch) := by
    simp only [State.idle, hstop, hhalt, hime, s.pending_iff.2 hpend, Bool.false_eq_true, if_false, Bool.and_self,
      if_true]
  rw [step_live hlive, hidle]

end Dispatch

/-- Settles O29: the step is the dispatch, its two writes decide between the handler and a refusal, and neither write
touches the marks. -/
theorem dispatchTakesLowest : Obligations.DispatchTakesLowest := by
  intro s k hlive hstop hhalt hime hk hie hif hlow ret taken
  have ⟨hfatal, hrefused, _⟩ := hlive
  have hlowest : lowestBit s.pending = k := State.lowestBit_pending hk hie hif hlow
  have hstep := step_dispatch hlive hstop hhalt hime ⟨k, hk, hie, hif⟩
  have hrefuse {e : Unsupported} (h : s.dispatch = .error e) : step s = .next { s with refused := some e } := by
    rw [hstep, h, State.conclude, s.afterCpu_marked (.inr (Option.some_ne_none e))]
  refine ⟨fun u w hu hw => ?_, fun e he => ?_, fun u e hu he => ?_⟩
  · have hcpu : w = w.withCpu taken := by
      rw [State.write_cpu hw, State.write_cpu hu]
      rfl
    rw [hstep, State.dispatch_ok hlowest hu hw, State.conclude]
    refine s.afterCpu_clean ?_ ?_ <;> dsimp only <;> rw [hcpu]
    · exact hfatal
    · exact hrefused
  · exact hrefuse (State.dispatch_error hlowest (.inl he))
  · exact hrefuse (State.dispatch_error hlowest (.inr ⟨u, hu, he⟩))

end Sys2Proof.Machine
end

section
/-! PROOFS. The refusals (`60_exceptions.md` R1430, R1435): where each is raised, and that an instruction or a step that
raises one commits its mark alone. -/

namespace Sys2Proof.Machine

/-! ### The marks under the operations instructions are built from -/

section Marks
variable {f : Option Fatal} {r : Option Unsupported} {s t : State}

theorem MarksAre.ok (hs : MarksAre f r s) (hf : t.fatal = s.fatal := by rfl) (hr : t.refused = s.refused := by rfl) :
    Holds (MarksAre f r) (.ok t) :=
  holds_ok ⟨hf.trans hs.1, hr.trans hs.2⟩

theorem MarksAre.write_bind {a : Word} {v : Byte} {g : State → Eff State} (hs : MarksAre f r s)
    (hg : ∀ u, MarksAre f r u → Holds (MarksAre f r) (g u)) : Holds (MarksAre f r) (s.write a v >>= g) :=
  holds_bind (fun u hu => by rw [State.write_cpu hu]; exact hs) hg

theorem MarksAre.push16 (v : Word) (hs : MarksAre f r s) : Holds (MarksAre f r) (s.push16 v) :=
  MarksAre.write_bind (s := { s with sp := s.sp - 1 }) hs fun u hu w hw => by
    rw [State.write_cpu hw]
    exact hu

theorem MarksAre.pop16_bind {g : Word × State → Eff State} (hs : MarksAre f r s)
    (hg : ∀ v u, MarksAre f r u → Holds (MarksAre f r) (g (v, u))) : Holds (MarksAre f r) (s.pop16 >>= g) := by
  have hreads : s.pop16 >>= g =
      s.read s.sp >>= fun x => State.read { x.2 with sp := x.2.sp + 1 } (x.2.sp + 1) >>= fun y =>
        g (word y.1 x.1, { y.2 with sp := y.2.sp + 1 }) := by
    unfold State.pop16
    simp only [bind_assoc]
    rfl
  rw [hreads]
  exact hs.read_bind fun _ u hu =>
    MarksAre.read_bind (s := { u with sp := u.sp + 1 }) hu fun _ _ hw => hg _ _ hw

theorem MarksAre.aluHl (op : AluOp) (hs : MarksAre f r s) : Holds (MarksAre f r) (s.aluHl op) :=
  MarksAre.read_bind (s := s.advance 1) hs fun _ _ hu => hu.ok

theorem MarksAre.loadA (len cycles : Nat) (a : Word) (hs : MarksAre f r s) :
    Holds (MarksAre f r) (s.loadA len cycles a) :=
  MarksAre.read_bind (s := s.advance len) hs fun _ _ hu => hu.ok

theorem MarksAre.storeByte (len cycles : Nat) (a : Word) (v : Byte) (hs : MarksAre f r s) :
    Holds (MarksAre f r) (s.storeByte len cycles a v) :=
  MarksAre.write_bind (s := s.advance len) hs fun _ hu => hu.ok

theorem MarksAre.jumpIf (len : Nat) (taken : Bool) (target : Word) (yes no : Nat) (hs : MarksAre f r s) :
    Holds (MarksAre f r) (s.jumpIf len taken target yes no) := by
  cases taken <;> exact hs.ok

theorem MarksAre.callIf (len : Nat) (taken : Bool) (target : Word) (yes no : Nat) (hs : MarksAre f r s) :
    Holds (MarksAre f r) (s.callIf len taken target yes no) := by
  cases taken
  · exact hs.ok
  · exact holds_bind (MarksAre.push16 (s := s.advance len) _ hs) fun _ hu => hu.ok

theorem MarksAre.returnIf (taken : Bool) (yes no : Nat) (hs : MarksAre f r s) :
    Holds (MarksAre f r) (s.returnIf taken yes no) := by
  cases taken
  · exact hs.ok
  · exact MarksAre.pop16_bind (s := s.advance 1) hs fun _ _ hu => hu.ok

end Marks

/-! ### Instructions and steps -/

variable {s t : State}

/-- An effect that raises no mark itself: its outcome either has the marks of before, or is a refusal alone. -/
theorem Holds.conclude_marks {e : Eff State} (he : Holds (MarksAre s.fatal s.refused) e) (h : s.conclude e = .next t) :
    t.refused = s.refused ∨ t = { s with refused := t.refused } := by
  cases e with
  | ok u => cases h; exact .inl (he _ rfl).2
  | error u => cases h; exact .inr rfl

/-- An instruction leaves the mark of a refusal as it was, or sets it and changes nothing else
(`60_exceptions.md` R1435). -/
theorem exec_refused {i : Instr} (h : exec i s = .next t) :
    t.refused = s.refused ∨ t = { s with refused := t.refused } := by
  have hs : MarksAre s.fatal s.refused s := ⟨rfl, rfl⟩
  cases i
  case addAHl | adcAHl | subHl | sbcAHl | andHl | xorHl | orHl | cpHl => exact (hs.aluHl _).conclude_marks h
  case incHl | decHl | resHl | setHl | rlcHl | rrcHl | rlHl | rrHl | slaHl | sraHl | swapHl | srlHl =>
    exact (hs.modifyHl _ _ _ _).conclude_marks h
  case ldABc | ldADe | ldAA16 | ldhAA8 | ldhAC => exact (hs.loadA _ _ _).conclude_marks h
  case ldAHli | ldAHld => exact (holds_bind (hs.loadA _ _ _) fun _ hu => hu.ok).conclude_marks h
  case ldRHl | bitHl =>
    exact (MarksAre.read_bind (s := s.advance _) hs fun _ _ hu => hu.ok).conclude_marks h
  case ldHlR | ldHlN | ldBcA | ldDeA | ldA16A | ldhA8A | ldhCA => exact (hs.storeByte _ _ _ _).conclude_marks h
  case ldHliA | ldHldA => exact (holds_bind (hs.storeByte _ _ _ _) fun _ hu => hu.ok).conclude_marks h
  case ldA16Sp =>
    exact (MarksAre.write_bind (s := s.advance 3) hs fun _ hu => hu.write_bind fun _ hw => hw.ok).conclude_marks h
  case jp | jpCc | jpHl | jr | jrCc => exact (hs.jumpIf _ _ _ _ _).conclude_marks h
  case call | callCc | rst => exact (hs.callIf _ _ _ _ _).conclude_marks h
  case ret | retCc => exact (hs.returnIf _ _ _).conclude_marks h
  case reti =>
    exact (holds_bind (MarksAre.pop16_bind (s := s.advance _) hs fun _ _ hu => hu.ok) fun _ hu =>
      hu.ok).conclude_marks h
  case push =>
    exact (holds_bind (MarksAre.push16 (s := s.advance 1) _ hs) fun _ hu => hu.ok).conclude_marks h
  case pop q =>
    exact (MarksAre.pop16_bind (s := s.advance _) hs fun _ _ hu =>
      hu.ok (by cases q <;> rfl) (by cases q <;> rfl)).conclude_marks h
  case prefixCb => exact (hs.read_bind fun op2 _ hu => hu.runSecondary op2).conclude_marks h
  case incRr p | decRr p | ldRrN p _ => exact .inl (by cases h; cases p <;> rfl)
  case halt => exact .inl (by cases h; split <;> rfl)
  all_goals exact .inl (by cases h; rfl)

/-- A refused fetch or instruction raises no fault besides. -/
theorem State.executeOne_refused (hs : s.refused = none) (h : s.executeOne exec = .next t) (ht : t.refused ≠ none) :
    t.fatal = s.fatal := by
  unfold State.executeOne at h
  cases hfetch : s.fetch with
  | error e => rw [hfetch] at h; cases h; rfl
  | ok x =>
    obtain ⟨i, v⟩ := x
    have hv : v.refused = none ∧ v.fatal = s.fatal := by rw [State.fetch_draws hfetch]; exact ⟨hs, rfl⟩
    simp only [hfetch] at h
    cases he : exec i v with
    | fault r => rw [he] at h; cases h
    | refused r => rw [he] at h; cases h
    | next w =>
      simp only [he, afterInstr, Host.Outcome.next.injEq] at h
      split at h
      · subst h
        rcases exec_refused he with hr | hw
        · exact absurd (hr.trans hv.1) ht
        · rw [hw]
          exact hv.2
      · rename_i hclean
        rw [← h, State.countdown_eq] at ht
        exact absurd (Option.isSome_iff_ne_none.2 ht) fun hr => hclean (by simp [show w.refused.isSome from hr])

/-- Taking an interrupt leaves the marks, if it is not refused. -/
theorem State.dispatch_marks (s : State) : Holds (MarksAre s.fatal s.refused) s.dispatch :=
  holds_bind (MarksAre.push16 _ ⟨rfl, rfl⟩) fun _ hu => hu.ok

/-- A step that executes no instruction raises no fault. -/
theorem State.idle_fatal (h : s.idle = some (.next t)) : t.fatal = s.fatal := by
  unfold State.idle at h
  split_ifs at h
  · cases h; rfl
  · cases h; rfl
  · cases hd : s.dispatch with
    | ok u =>
      rw [hd] at h
      cases h
      exact (s.dispatch_marks _ hd).1
    | error e => rw [hd] at h; cases h; rfl

/-- A mark commits alone: with a refusal that came with no fault, nothing else changes (`60_exceptions.md` R1430). -/
theorem State.afterCpu_refused {o : Host.Outcome State Fault Refusal}
    (hcpu : ∀ u, o = .next u → u.refused ≠ none → u.fatal = s.fatal) (h : s.afterCpu o = .next t)
    (ht : t.refused ≠ none) : t = { s with refused := t.refused } := by
  cases o with
  | fault r => cases h
  | refused r => cases h
  | next u =>
    by_cases hm : u.fatal ≠ none ∨ u.refused ≠ none
    · rw [State.afterCpu_marked s hm] at h
      cases h
      rw [hcpu u rfl ht]
    · obtain ⟨hf, hr⟩ : u.fatal = none ∧ u.refused = none := by simpa using hm
      rw [State.afterCpu_clean s hf hr, ← State.elapse_eq] at h
      cases h
      exact absurd ((State.elapse_refused u).trans hr) ht

/-- A step that sets the mark of a refusal changes nothing else (`60_exceptions.md` R1435). -/
theorem step_refused (hs : s.refused = none) (h : step s = .next t) (ht : t.refused ≠ none) :
    t = { s with refused := t.refused } := by
  unfold step State.stepWith at h
  cases hb : s.blocked with
  | some o =>
    simp only [hb] at h
    subst h
    unfold State.blocked at hb
    split at hb <;> cases hb
    exact absurd hs ht
  | none =>
    simp only [hb] at h
    refine State.afterCpu_refused (fun u hu hur => ?_) h ht
    cases hidle : s.idle with
    | some o =>
      simp only [hidle] at hu
      exact State.idle_fatal (hidle.trans (congrArg some hu))
    | none =>
      simp only [hidle] at hu
      exact State.executeOne_refused hs hu hur

/-! ### The refusals -/

/-- A load of a cartridge without CGB support on CGB hardware fails (`20_memory.md` R403). -/
theorem load_compatibility {x : LoadArgs} (hhw : x.hw = .cgb) (hflag : (x.rom.byte 0x143).getLsbD 7 = false)
    (s : State) : load x ≠ .ok s := by
  have hrefuse : (x.hw == .cgb && !(x.rom.byte 0x143).getLsbD 7) = true := by rw [hhw, hflag]; rfl
  unfold load
  simp only [hrefuse, if_true]
  repeat' split
  all_goals exact nofun

/-- Settles O30: each refusing access is one target or register of the bus, a refused effect concludes with the mark
alone, and the mark blocks the step. -/
theorem refusalsCommitNothingElse : Obligations.RefusalsCommitNothingElse := by
  refine ⟨fun s v hcgb hv => ?_, fun s v hcgb => s.write_ioAt v .hdma5 0x55 (State.ioRegAt_cgb hcgb rfl),
    fun s v hv => ?_, fun s a v romb ramb hctrl hlo hhi hA hB => ?_, fun x hhw hflag => load_compatibility hhw hflag,
    fun i s t hs h ht => (exec_refused h).resolve_left fun hr => ht (hr.trans hs), fun s t => step_refused,
    fun s e hfatal => ?_⟩
  · rw [s.write_ioAt v .key1 0x4D (State.ioRegAt_cgb hcgb rfl)]
    exact if_pos hv
  · have hdma : s.target 0xFF46 = .io .dma := s.target_io (n := 0x46) rfl (by decide) rfl
    rw [State.write, hdma]
    exact if_neg (by omega)
  · exact State.access_clock v (State.target_ext_of_ctrl hA hB hctrl ((if_neg (by omega)).trans (if_pos ⟨hlo, hhi⟩)))
  · simp only [step, State.stepWith, State.blocked, hfatal]

end Sys2Proof.Machine
end

section
/-! PROOFS. The timer (`60_exceptions.md` R1500-R1510): its advance cycle by cycle, the overflow boundary, the CPU's
writes of its registers. -/

namespace Sys2Proof.Machine

/-! ### The advance -/

/-- Advances add up (`60_exceptions.md` R1509). -/
theorem State.timerAdvance_add (s : State) (m n : Nat) :
    s.timerAdvance (m + n) = (s.timerAdvance m).timerAdvance n := by
  unfold State.timerAdvance
  rw [timerRun_add]

/-- The advance leaves all but the counter, TIMA and IF. -/
theorem State.timerAdvance_rest (s : State) (n : Nat) :
    s.timerAdvance n = { s with
      timer := { s.timer with
        counter := s.timer.counter + BitVec.ofNat 16 n, tima := (s.timerAdvance n).timer.tima }
      ifl := (s.timerAdvance n).ifl } :=
  congrArg (fun t => { s with timer := t, ifl := (timerRun n s.timer s.ifl).2 }) (timerRun_rest n s.timer s.ifl)

/-- Settles O38: one cycle is one edge check, and the falls of the tapped bit are the multiples of twice its weight that
the counter passes. -/
theorem timerAdvanceRate : Obligations.TimerAdvanceRate := by
  intro s m n
  refine ⟨s.setTimer_eq _, s.timerAdvance_add m n, s.timerAdvance_rest n, fun hoff => ?_, fun hon hle => ?_⟩
  · have hrun := timerRun_disabled n s.timer s.ifl hoff
    exact ⟨congrArg (·.1.tima) hrun, congrArg Prod.snd hrun⟩
  · exact timerRun_count n s.timer s.ifl hon hle

/-! ### The overflow boundary -/

/-- A cycle in which TIMA overflows: the reload of TMA and one request (`60_exceptions.md` R1504). -/
theorem timerTick_overflow {t : Timer} (i : BitVec 5) (hon : t.tac.getLsbD 2 = true) (htima : t.tima = 0xFF)
    (hfall : (t.counter.toNat + 1) % 2 ^ (tapBit t.tac + 1) = 0) :
    timerTick t i = ({ t with counter := t.counter + 1, tima := t.tma }, requestBit i 2) := by
  rw [timerTick_enabled t i hon, if_pos hfall, incTima, if_pos htima]

/-- A whole period fits the counter. -/
theorem period_le (k : BitVec 3) : 2 ^ (tapBit k + 1) ≤ 1024 := by
  rcases tapBit_cases k with h | h | h | h <;> rw [h] <;> decide

/-- From the start of a period with TIMA and TMA at 0xFF, a whole period makes one request, in its last cycle. -/
theorem timerRun_period {t : Timer} (hon : t.tac.getLsbD 2 = true) (htima : t.tima = 0xFF) (htma : t.tma = 0xFF)
    (hstart : t.counter.toNat = 2 ^ (tapBit t.tac + 1)) {n : Nat} (hn : n ≤ 2 ^ (tapBit t.tac + 1)) :
    (timerRun n t 0).1.tima = 0xFF ∧
      (timerRun n t 0).2 = if n = 2 ^ (tapBit t.tac + 1) then 0b00100#5 else 0 := by
  have hpos : 0 < 2 ^ (tapBit t.tac + 1) := Nat.two_pow_pos _
  have hle := period_le t.tac
  have hquiet {m : Nat} (hm : m < 2 ^ (tapBit t.tac + 1)) :
      (timerRun m t 0).1.tima = 0xFF ∧ (timerRun m t 0).2 = 0 := by
    have hedges : (t.counter.toNat + m) / 2 ^ (tapBit t.tac + 1) - t.counter.toNat / 2 ^ (tapBit t.tac + 1) = 0 := by
      rw [hstart, Nat.add_div_left _ hpos, Nat.div_self hpos, Nat.div_eq_of_lt hm]
    have hcount := timerRun_count m t 0 hon
    rw [hedges, htima] at hcount
    exact ⟨BitVec.eq_of_toNat_eq (hcount (by decide)).1, (hcount (by decide)).2⟩
  by_cases hlast : n = 2 ^ (tapBit t.tac + 1)
  · obtain ⟨m, rfl⟩ : ∃ m, n = m + 1 := ⟨n - 1, by omega⟩
    obtain ⟨hm, hi⟩ := hquiet (m := m) (by omega)
    have hrest := timerRun_rest m t 0
    rw [hm] at hrest
    have hcounter : (t.counter + BitVec.ofNat 16 m).toNat = t.counter.toNat + m := by
      rw [BitVec.toNat_add, BitVec.toNat_ofNat]
      omega
    have htick := timerTick_overflow (t := (timerRun m t 0).1) 0 (by rw [hrest]; exact hon) hm (by
      rw [hrest]
      dsimp only
      rw [hcounter, hstart, Nat.add_assoc, hlast, Nat.add_mod_left, Nat.mod_self])
    rw [if_pos hlast, timerRun_add, hi]
    show (timerTick _ 0).1.tima = _ ∧ (timerTick _ 0).2 = _
    rw [htick, hrest]
    exact ⟨htma, rfl⟩
  · rw [if_neg hlast]
    exact hquiet (by omega)

/-- Settles O39: the boundary's cycle overflows, and starts a period with TIMA at 0xFF again. -/
theorem timerOverflowOncePerPeriod : Obligations.TimerOverflowOncePerPeriod := by
  intro s hon htima htma hcounter one
  have hpos : 0 < 2 ^ (tapBit s.timer.tac + 1) := Nat.two_pow_pos _
  have hle := period_le s.timer.tac
  have htick := timerTick_overflow s.ifl hon htima
    (by rw [hcounter, Nat.sub_add_cancel hpos, Nat.mod_self])
  have hone : one = { s with
      timer := { s.timer with counter := s.timer.counter + 1, tima := s.timer.tma }, ifl := requestBit s.ifl 2 } :=
    congrArg (fun x : Timer × BitVec 5 => { s with timer := x.1, ifl := x.2 }) htick
  rw [hone]
  refine ⟨htma, rfl, fun n hn => timerRun_period (by exact hon) (by exact htma) (by exact htma) ?_ hn⟩
  show (s.timer.counter + 1).toNat = _
  rw [BitVec.toNat_add, hcounter]
  show (_ - 1 + 1) % 65536 = _
  rw [Nat.sub_add_cancel hpos, Nat.mod_eq_of_lt (by omega)]

/-! ### The CPU's writes -/

/-- Settles O40: DIV, TAC and STOP change the timer with the edge that may make, TIMA and TMA without one. -/
theorem timerRegisterWrites : Obligations.TimerRegisterWrites := by
  intro s v
  have htac : s.write 0xFF07 v = .ok (s.withTimer { s.timer with tac := v.extractLsb' 0 3 }) := by
    rw [s.write_ioAt v .tac 0x07, State.writeIo, State.writeTac, State.setTimer_eq]
  refine ⟨?_, ?_, htac, s.write_ioAt v .tima 0x05, s.write_ioAt v .tma 0x06, fun hoff => ?_⟩
  · show s.conclude (.ok ({ (s.advance 2).divReset with stopped := true }.cost 4)) = _
    rw [State.advance_eq_with s 2 (by decide), ← State.setTimer_eq]
    rfl
  · rw [s.write_ioAt v .div 0x04, State.writeIo, State.divReset, State.setTimer_eq]
  · have hno : tapSignal s.timer = false := by rw [tapSignal, hoff, Bool.false_and]
    rw [htac, State.withTimer, hno]
    rfl

end Sys2Proof.Machine
end

section
/-! PROOFS. The frame (`60_exceptions.md` R1600-R1609): where the picture unit is after any number of cycles from the
start of a frame. The schedule is kept whatever the window's line counter and the length of mode 3 were at that start, so
what is kept here asks less of the unit than `Ppu.Scheduled`. -/

namespace Sys2Proof.Machine

/-! ### One tick, by what it reaches -/

section Tick
variable (v : Video) {p : Ppu} (ifl : BitVec 5)

theorem Video.tick_transfer (hly : p.ly < 144) (hdot : p.dot = 79) :
    v.tick (p, ifl) =
      ({ p with dot := 80, mode := .transfer, mode3Len := v.mode3Length { p with dot := 80 } }, ifl) := by
  simp [Video.tick, Video.enterTransfer, hly, hdot]

theorem Video.tick_hblank (hly : p.ly < 144) (hlo : 80 ≤ p.dot) (hhi : p.dot < 455)
    (hdot : p.dot + 1 = 80 + p.mode3Len) :
    v.tick (p, ifl) =
      (v.renderLine { p with dot := p.dot + 1, mode := .hblank } p.ly, statRequest ifl p.selHblank) := by
  have hno : ¬(v.renderLine { p with dot := p.dot + 1, mode := .hblank } p.ly).dot = 456 := by
    show ¬p.dot + 1 = 456
    omega
  simp only [Video.tick, Video.enterHblank, if_pos hly, if_neg (show ¬p.dot + 1 = 80 by omega), if_pos hdot]
  exact if_neg hno

theorem Video.tick_newLine (hdot : p.dot = 455) (hlen : p.ly < 144 → p.mode3Len ≠ 376) :
    v.tick (p, ifl) = nextLine ({ p with dot := 456 }, ifl) := by
  have hno : p.ly < 144 → ¬456 = 80 + p.mode3Len := fun h => by have := hlen h; omega
  by_cases hly : p.ly < 144
  · simp [Video.tick, hdot, hly, hno hly]
  · simp [Video.tick, hdot, hly]

theorem Video.tick_dot (hdot : p.dot < 455) (hno : p.ly < 144 → p.dot ≠ 79 ∧ p.dot + 1 ≠ 80 + p.mode3Len) :
    v.tick (p, ifl) = ({ p with dot := p.dot + 1 }, ifl) := by
  have hend : ¬p.dot + 1 = 456 := by omega
  by_cases hly : p.ly < 144
  · obtain ⟨h80, hlen⟩ := hno hly
    simp only [Video.tick, if_pos hly, if_neg (show ¬p.dot + 1 = 80 by omega), if_neg hlen, if_neg hend]
  · simp only [Video.tick, if_neg hly, if_neg hend]

end Tick

/-! ### The requests of a tick -/

/-- A STAT request leaves the V-blank request. -/
@[simp] theorem statRequest_vblank (ifl : BitVec 5) (on : Bool) : (statRequest ifl on).getLsbD 0 = ifl.getLsbD 0 := by
  rw [statRequest]
  split
  · rw [requestBit, BitVec.getLsbD_or]
    exact Bool.or_false _
  · rfl

@[simp] theorem requestBit_vblank (ifl : BitVec 5) : (requestBit ifl 0).getLsbD 0 = true := by
  rw [requestBit, BitVec.getLsbD_or]
  exact Bool.or_true _

@[simp] theorem compareLy_vblank (x : PpuIf) : (compareLy x).2.getLsbD 0 = x.2.getLsbD 0 := statRequest_vblank _ _

/-! ### The schedule from the start of a frame -/

/-- The unit is where the schedule of `60_exceptions.md` R1600 has it `c` cycles after the start of a frame; from dot 80 on
the length of mode 3 is one that was taken. -/
structure Video.Timed (v : Video) (p : Ppu) (c : Nat) : Prop where
  on : p.on = true
  dot : p.dot = c % 456
  ly : p.ly = c / 456 % 154
  mode : p.mode = scheduledMode p.ly p.dot p.mode3Len
  len : 80 ≤ c → 172 ≤ p.mode3Len ∧ p.mode3Len ≤ 289
  constant : ∀ extra : Fin 118, v.mode3 = .constant extra → 80 ≤ c → p.mode3Len = 172 + extra.val

theorem Video.mode3Length_constant {v : Video} {extra : Fin 118} (h : v.mode3 = .constant extra) (p : Ppu) :
    v.mode3Length p = 172 + extra.val := by
  rw [Video.mode3Length, h]

/-- Off the boundaries of `60_exceptions.md` R1600 the mode stays. -/
theorem scheduledMode_succ {ly dot len : Nat} (h : ly < 144 → dot ≠ 79 ∧ (dot < 80 ∨ dot + 1 ≠ 80 + len)) :
    scheduledMode ly dot len = scheduledMode ly (dot + 1) len := by
  unfold scheduledMode
  by_cases hvis : ly < 144
  · rw [if_neg (Nat.not_le.2 hvis), if_neg (Nat.not_le.2 hvis)]
    by_cases hscan : dot < 80
    · rw [if_pos hscan, if_pos (show dot + 1 < 80 by omega)]
    · rw [if_neg hscan, if_neg (show ¬dot + 1 < 80 by omega)]
      by_cases htransfer : dot < 80 + len
      · rw [if_pos htransfer, if_pos (show dot + 1 < 80 + len by omega)]
      · rw [if_neg htransfer, if_neg (show ¬dot + 1 < 80 + len by omega)]
  · rw [if_pos (Nat.not_lt.1 hvis), if_pos (Nat.not_lt.1 hvis)]

/-- Within a line the schedule goes on if the mode and the length of mode 3 do. -/
theorem Video.Timed.next {v : Video} {p q : Ppu} {c : Nat} (h : v.Timed p c) (hdot : p.dot < 455) (hon : q.on = true)
    (hqdot : q.dot = p.dot + 1) (hqly : q.ly = p.ly) (hmode : q.mode = scheduledMode q.ly q.dot q.mode3Len)
    (hlen : 80 ≤ c + 1 → 172 ≤ q.mode3Len ∧ q.mode3Len ≤ 289)
    (hconst : ∀ extra : Fin 118, v.mode3 = .constant extra → 80 ≤ c + 1 → q.mode3Len = 172 + extra.val) :
    v.Timed q (c + 1) := by
  have hd := h.dot
  have hl := h.ly
  exact ⟨hon, by omega, by omega, hmode, hlen, hconst⟩

/-- At the end of a line the schedule goes on at the next line's start. -/
theorem Video.Timed.newLine {v : Video} {p q : Ppu} {c : Nat} (h : v.Timed p c) (hdot : p.dot = 455) (hon : q.on = true)
    (hqdot : q.dot = 0) (hqly : q.ly = (p.ly + 1) % 154) (hmode : q.mode = if q.ly < 144 then .oamScan else .vblank)
    (hlen : q.mode3Len = p.mode3Len) : v.Timed q (c + 1) := by
  have hd := h.dot
  have hl := h.ly
  refine ⟨hon, by omega, by omega, ?_, fun _ => ?_, fun extra he _ => ?_⟩
  · rw [hmode, hqdot, scheduledMode]
    by_cases hv : q.ly < 144
    · rw [if_pos hv, if_neg (by omega), if_pos (by decide)]
    · rw [if_neg hv, if_pos (by omega)]
  · rw [hlen]
    exact h.len (by omega)
  · rw [hlen]
    exact h.constant extra he (by omega)

/-- The start of a line, with V-blank requested at the end of line 143. -/
theorem nextLine_timed {v : Video} {p : Ppu} {c : Nat} (ifl : BitVec 5) (h : v.Timed p c) (hdot : p.dot = 455) :
    v.Timed (nextLine ({ p with dot := 456 }, ifl)).1 (c + 1) ∧
      (nextLine ({ p with dot := 456 }, ifl)).2.getLsbD 0 = (ifl.getLsbD 0 || decide (p.ly = 143)) := by
  have hly : p.ly ≤ 153 := by have := h.ly; omega
  rcases nextLine_cases { p with dot := 456 } ifl hly with ⟨hl, e⟩ | ⟨hl, e⟩ | ⟨hl, e⟩ | ⟨hl, hl', e⟩ <;>
    rw [e, compareLy_fst, compareLy_vblank] <;> dsimp only at hl
  · refine ⟨h.newLine hdot h.on rfl (by rw [hl]) rfl rfl, ?_⟩
    rw [statRequest_vblank, requestBit_vblank, decide_eq_true hl, Bool.or_true]
  · refine ⟨h.newLine hdot h.on rfl (by rw [hl]) rfl rfl, ?_⟩
    rw [statRequest_vblank, decide_eq_false (by omega), Bool.or_false]
  · have hvis : p.ly + 1 < 144 := by omega
    have hnum : p.ly + 1 = (p.ly + 1) % 154 := by omega
    refine ⟨h.newLine hdot h.on rfl hnum (if_pos hvis).symm rfl, ?_⟩
    rw [statRequest_vblank, decide_eq_false (by omega), Bool.or_false]
  · have hmode : p.mode = .vblank := by rw [h.mode, scheduledMode, if_pos hl]
    have hvb : ¬p.ly + 1 < 144 := by omega
    have hnum : p.ly + 1 = (p.ly + 1) % 154 := (Nat.mod_eq_of_lt (Nat.succ_lt_succ hl')).symm
    refine ⟨h.newLine hdot h.on rfl hnum (hmode.trans (if_neg hvb).symm) rfl, ?_⟩
    rw [decide_eq_false (by omega), Bool.or_false]

/-- A tick advances the schedule by one cycle, and requests V-blank at the end of line 143 (`60_exceptions.md` R1609). -/
theorem Video.tick_timed {v : Video} {p : Ppu} {c : Nat} (ifl : BitVec 5) (h : v.Timed p c) :
    v.Timed (v.tick (p, ifl)).1 (c + 1) ∧
      (v.tick (p, ifl)).2.getLsbD 0 = (ifl.getLsbD 0 || decide (c % 70224 = 65663)) := by
  have ⟨hon, hdot, hly, hmode, hlen, hconst⟩ := h
  by_cases hend : p.dot = 455
  · have hvblank : c % 70224 = 65663 ↔ p.ly = 143 := by omega
    rw [v.tick_newLine ifl hend fun _ => by have := hlen (by omega); omega]
    simp only [hvblank]
    exact nextLine_timed ifl h hend
  have hin : p.dot < 455 := by omega
  have hquiet : decide (c % 70224 = 65663) = false := decide_eq_false (by omega)
  rw [hquiet, Bool.or_false]
  by_cases h79 : p.ly < 144 ∧ p.dot = 79
  · obtain ⟨hvis, hd⟩ := h79
    have hrange := v.mode3Length_range { p with dot := 80 }
    rw [v.tick_transfer ifl hvis hd]
    refine ⟨h.next hin hon (by rw [hd]) rfl ?_ (fun _ => hrange) fun _ he _ => Video.mode3Length_constant he _, rfl⟩
    dsimp only
    rw [scheduledMode, if_neg (by omega), if_neg (by decide), if_pos (by omega)]
  by_cases hh : p.ly < 144 ∧ 80 ≤ p.dot ∧ p.dot + 1 = 80 + p.mode3Len
  · obtain ⟨hvis, hlo, hd⟩ := hh
    rw [v.tick_hblank ifl hvis hlo hin hd]
    refine ⟨h.next hin hon rfl rfl ?_ (fun _ => hlen (by omega)) fun _ he _ => hconst _ he (by omega),
      statRequest_vblank _ _⟩
    show PpuMode.hblank = scheduledMode p.ly (p.dot + 1) p.mode3Len
    rw [scheduledMode, if_neg (by omega), if_neg (by omega), if_neg (by omega)]
  · rw [v.tick_dot ifl hin fun hvis => by omega]
    refine ⟨h.next hin hon rfl rfl ?_ (fun _ => hlen (by omega)) fun _ he _ => hconst _ he (by omega), rfl⟩
    exact hmode.trans (scheduledMode_succ fun hvis => by omega)

/-- Ticks advance the schedule, and request V-blank if the end of line 143 lies among them: of the first `c` cycles,
`(c + 4560) / 70224` are such an end. -/
theorem Video.ticks_timed {v : Video} (n : Nat) {p : Ppu} {c : Nat} (ifl : BitVec 5) (h : v.Timed p c) :
    v.Timed (v.ticks n (p, ifl)).1 (c + n) ∧
      (v.ticks n (p, ifl)).2.getLsbD 0 = (ifl.getLsbD 0 || decide ((c + 4560) / 70224 < (c + n + 4560) / 70224)) := by
  induction n generalizing p c ifl with
  | zero => exact ⟨h, by simp [Video.ticks]⟩
  | succ n ih =>
    obtain ⟨htick, hreq⟩ := v.tick_timed ifl h
    obtain ⟨hticks, hreqs⟩ := ih (v.tick (p, ifl)).2 htick
    rw [show c + (n + 1) = c + 1 + n by omega]
    refine ⟨hticks, hreqs.trans ?_⟩
    rw [hreq, Bool.or_assoc, ← Bool.decide_or]
    congr 2
    rw [eq_iff_iff]
    omega

/-! ### The frame -/

/-- The advance of the picture unit from a cycle of a frame. -/
theorem State.ppuAdvance_timed {s : State} {c : Nat} (n : Nat) (h : s.video.Timed s.ppu c) :
    s.video.Timed (s.ppuAdvance n).ppu (c + n) ∧
      (s.ppuAdvance n).ifl.getLsbD 0 =
        (s.ifl.getLsbD 0 || decide ((c + 4560) / 70224 < (c + n + 4560) / 70224)) := by
  have hrun : s.video.run n (s.ppu, s.ifl) = s.video.ticks n (s.ppu, s.ifl) := if_pos h.on
  unfold State.ppuAdvance
  rw [hrun]
  exact s.video.ticks_timed n s.ifl h

/-- Settles O41: a frame has 70224 cycles, and the schedule is kept tick by tick from its start. -/
theorem frameBudget : Obligations.FrameBudget := by
  intro s n hon hly hdot hmode t
  have hstart : s.video.Timed s.ppu 0 := by
    refine ⟨hon, hdot, hly, ?_, fun h => absurd h (by decide), fun _ _ h => absurd h (by decide)⟩
    rw [hmode, hly, hdot]
    rfl
  obtain ⟨htimed, hreq⟩ := s.ppuAdvance_timed n hstart
  rw [Nat.zero_add] at htimed hreq
  refine ⟨htimed.dot, htimed.ly, htimed.mode, htimed.constant, ?_, fun m hm => ?_⟩
  · rw [hreq]
    congr 2
    rw [eq_iff_iff]
    omega
  · obtain ⟨hvblank, -⟩ := s.ppuAdvance_timed 65664 hstart
    obtain ⟨-, hquiet⟩ := State.ppuAdvance_timed (s := { s.ppuAdvance 65664 with ifl := 0 }) m hvblank
    rw [hquiet, decide_eq_false (by omega), Bool.or_false]
    exact BitVec.getLsbD_zero

end Sys2Proof.Machine
end

section
/-! PROOFS. The CPU's writes of the picture unit's registers, and the idle unit (`60_exceptions.md` R1605-R1608). -/

namespace Sys2Proof.Machine

/-! ### The idle unit (`60_exceptions.md` R1607) -/

/-- While the display is off no cycle changes anything. -/
theorem State.ppuAdvance_off {s : State} (n : Nat) (hoff : s.ppu.on = false) : s.ppuAdvance n = s := by
  have hrun : s.video.run n (s.ppu, s.ifl) = (s.ppu, s.ifl) := if_neg (Bool.eq_false_iff.1 hoff)
  rw [State.ppuAdvance, hrun]

/-- While the display is off LY is 0. -/
theorem Ppu.ly_off {p : Ppu} (h : p.Scheduled) (hoff : p.on = false) : p.ly = 0 := by
  obtain ⟨-, -, -, hidle⟩ := h
  rw [if_neg (Bool.eq_false_iff.1 hoff)] at hidle
  exact hidle.2.1

/-- While the display is off the mode bits of STAT read 0. -/
theorem Ppu.readStat_off {p : Ppu} (hoff : p.on = false) :
    p.readStat.getLsbD 0 = false ∧ p.readStat.getLsbD 1 = false := by
  have hbits : ∀ (sel : BitVec 4) (coinc : Bool),
      let b : Byte := 1#1 ++ sel ++ BitVec.ofBool coinc ++ 0#2
      b.getLsbD 0 = false ∧ b.getLsbD 1 = false := by
    decide
  rw [Ppu.readStat, if_neg (Bool.eq_false_iff.1 hoff)]
  exact hbits p.statSel p.coinc

/-! ### LCDC (`60_exceptions.md` R1606, R1608) -/

section Lcdc
variable {s : State} {v : Byte}

theorem State.writeLcdc_off (hon : s.ppu.on = true) (hv : v.getLsbD 7 = false) :
    s.writeLcdc v =
      { s with ppu := { s.ppu with lcdc := v, ly := 0, dot := 0, mode := .hblank, fb := blankFrame s.cfg.cgbMode } } := by
  have hturn : (s.ppu.on && !Ppu.on { s.ppu with lcdc := v }) = true := by
    rw [hon]
    exact Bool.not_eq_true' _ ▸ hv
  exact if_pos hturn

theorem State.writeLcdc_on (hoff : s.ppu.on = false) (hv : v.getLsbD 7 = true) :
    s.writeLcdc v =
      { s with ppu := { s.ppu with
          lcdc := v, ly := 0, dot := 0, mode := .oamScan, winLine := 0, coinc := s.ppu.lyc == 0 } } := by
  have hstay : ¬(s.ppu.on && !Ppu.on { s.ppu with lcdc := v }) = true := by rw [hoff]; exact Bool.false_ne_true
  have hturn : (!s.ppu.on && Ppu.on { s.ppu with lcdc := v }) = true := by rw [hoff]; exact hv
  exact (if_neg hstay).trans (if_pos hturn)

theorem State.writeLcdc_same (h : s.ppu.on = v.getLsbD 7) :
    s.writeLcdc v = { s with ppu := { s.ppu with lcdc := v } } := by
  have hnew : Ppu.on { s.ppu with lcdc := v } = s.ppu.on := h.symm
  have hstay : ¬(s.ppu.on && !Ppu.on { s.ppu with lcdc := v }) = true := by rw [hnew]; simp
  have hstay' : ¬(!s.ppu.on && Ppu.on { s.ppu with lcdc := v }) = true := by rw [hnew]; simp
  exact (if_neg hstay).trans (if_neg hstay')

end Lcdc

/-! ### LYC (`60_exceptions.md` R1605) -/

/-- A request of the STAT interrupt under a condition (`60_exceptions.md` R1604). -/
theorem statRequest_eq (ifl : BitVec 5) (on : Bool) :
    statRequest ifl on = if on = true then ifl ||| 0b00010#5 else ifl := rfl

theorem State.writeLyc_off {s : State} (v : Byte) (hoff : s.ppu.on = false) :
    s.writeLyc v = { s with ppu := { s.ppu with lyc := v } } :=
  if_neg (Bool.eq_false_iff.1 hoff)

theorem State.writeLyc_on {s : State} (v : Byte) (hon : s.ppu.on = true) :
    s.writeLyc v =
      { s with
        ppu := { s.ppu with lyc := v, coinc := decide (s.ppu.ly = v.toNat) }
        ifl := if s.ppu.ly = v.toNat ∧ s.ppu.coinc = false ∧ s.ppu.statSel.getLsbD 3 = true then s.ifl ||| 0b00010#5
          else s.ifl } := by
  have hreq : ((s.ppu.ly == v.toNat) && !s.ppu.coinc && s.ppu.selLyc) = true ↔
      s.ppu.ly = v.toNat ∧ s.ppu.coinc = false ∧ s.ppu.statSel.getLsbD 3 = true := by
    simp only [Bool.and_eq_true, beq_iff_eq, Bool.not_eq_true', and_assoc, Ppu.selLyc]
  rw [State.writeLyc, if_pos hon]
  dsimp only
  rw [statRequest_eq, beq_eq_decide]
  simp only [← beq_eq_decide, hreq]

/-- Settles O43: a write of LCDC turns the display off, on or neither, and an idle unit stays as it is. -/
theorem ppuRegisterWrites : Obligations.PpuRegisterWrites := by
  intro s v n
  have hlcdc := s.write_ioAt (a := 0xFF40) v .lcdc 0x40
  have hlyc := s.write_ioAt (a := 0xFF45) v .lyc 0x45
  refine ⟨fun hon hv => ?_, fun hoff hv => ?_, fun h => ?_, fun hoff => ⟨s.ppuAdvance_off n hoff, ?_⟩,
    ⟨_, s.peek_ioAt .stat 0x41, fun hoff => Ppu.readStat_off hoff⟩, fun hoff => ?_, fun hon => ?_,
    s.write_ioAt v .stat 0x41, s.write_ioAt v .ly 0x44⟩
  · rw [hlcdc, State.writeIo, State.writeLcdc_off hon hv]
    rfl
  · rw [hlcdc, State.writeIo, State.writeLcdc_on hoff hv, beq_eq_decide]
  · rw [hlcdc, State.writeIo, State.writeLcdc_same h]
  · rintro ⟨-, -, hsched, ⟨-, -, hblank⟩, -⟩
    refine ⟨?_, hblank hoff⟩
    rw [s.peek_ioAt .ly 0x44, State.readIo, Ppu.ly_off hsched hoff]
    rfl
  · rw [hlyc, State.writeIo, State.writeLyc_off v hoff]
  · rw [hlyc, State.writeIo, State.writeLyc_on v hon]

end Sys2Proof.Machine
end

section
/-! PROOFS. Sprites (`60_exceptions.md` R1626-R1628, R1642-R1645): which OAM entries a line shows, the color of a sprite's
pixel, and which sprite decides a column. -/

namespace Sys2Proof.Machine

/-! ### The sprites of a line -/

/-- The first `n` that pass a test are all that pass it among the first `k`, where the list ends or the `n` are found. -/
theorem take_filter_eq_filter_take {α : Type} (f : α → Bool) (l : List α) (n : Nat) :
    ∃ k, k ≤ l.length ∧ (l.filter f).take n = (l.take k).filter f ∧
      (k = l.length ∨ ((l.filter f).take n).length = n) := by
  induction l generalizing n with
  | nil => exact ⟨0, Nat.le_refl 0, by simp, .inl rfl⟩
  | cons a l ih =>
    cases n with
    | zero => exact ⟨0, Nat.zero_le _, rfl, .inr rfl⟩
    | succ n =>
      cases hf : f a with
      | true =>
        obtain ⟨k, hk, heq, hstop⟩ := ih n
        refine ⟨k + 1, Nat.succ_le_succ hk, ?_, hstop.imp (congrArg (· + 1)) fun hlen => ?_⟩
        · simp [hf, heq]
        · simpa [hf] using hlen
      | false =>
        obtain ⟨k, hk, heq, hstop⟩ := ih (n + 1)
        refine ⟨k + 1, Nat.succ_le_succ hk, ?_, hstop.imp (congrArg (· + 1)) fun hlen => ?_⟩
        · simp [hf, heq]
        · simpa [hf] using hlen

/-- Settles O46: the selection is the first ten that pass the test of rows, and takes no part of X. -/
theorem spriteSelection : Obligations.SpriteSelection := by
  intro v p y h onLine l
  refine ⟨fun i _ => ⟨rfl, rfl, rfl, rfl⟩, fun hoff => ?_, fun hon => ?_, ?_⟩
  · exact if_neg (Bool.eq_false_iff.1 hoff)
  · have hl : l = (((List.range 40).map v.sprite).filter onLine).take 10 := by
      refine (if_pos hon).trans (congrArg (List.take 10) (List.filter_congr fun o _ => ?_))
      exact (Bool.decide_and _ _).symm
    obtain ⟨k, hk, heq, hstop⟩ := take_filter_eq_filter_take onLine ((List.range 40).map v.sprite) 10
    rw [List.length_map, List.length_range] at hk hstop
    rw [← hl] at heq hstop
    refine ⟨?_, k, hk, ?_, hstop⟩
    · rw [hl]
      exact List.length_take_le _ _
    · rw [heq, ← List.map_take, List.take_range, Nat.min_eq_left hk]
  · rintro o x hx hlt ⟨hle, hlo, -⟩
    rcases hx with hx | hx
    · rw [hx] at hlo
      exact Nat.not_lt_zero x hlo
    · omega

/-! ### A sprite's pixel -/

/-- Bit 0 of a byte cleared, as a number. -/
theorem and_0xFE_toNat : ∀ t : Byte, (t &&& 0xFE).toNat = t.toNat / 2 * 2 := by decide

/-- The tile byte a sprite's pixel comes from, its flips, its tile pair and its bank (`60_exceptions.md` R1627, R1642). -/
theorem Video.spriteColor_toNat (v : Video) (p : Ppu) (o : Sprite) (x y : Nat) :
    let h := if p.lcdc.getLsbD 2 then 16 else 8
    let r := if o.attr.getLsbD 6 then h - 1 - (y + 16 - o.y.toNat) else y + 16 - o.y.toNat
    let c := if o.attr.getLsbD 5 then 7 - (x + 8 - o.x.toNat) else x + 8 - o.x.toNat
    let n := if h = 16 then o.tile.toNat / 2 * 2 else o.tile.toNat
    let bank := if v.cgb = true ∧ o.attr.getLsbD 3 = true then 0x2000 else 0
    (v.spriteColor p o x y).toNat = tileIndex v (bank + 16 * n) r c := by
  intro h r c n bank
  have htile : (if h = 16 then o.tile &&& 0xFE else o.tile).toNat = n := by
    rw [apply_ite BitVec.toNat, and_0xFE_toNat]
  have hbank : (if v.cgb && o.attr.getLsbD 3 then 1 else 0) * 0x2000 = bank := by
    rw [ite_mul, Nat.one_mul, Nat.zero_mul]
    simp only [Bool.and_eq_true]
    rfl
  show (v.tileColor _ (16 * (if h = 16 then o.tile &&& 0xFE else o.tile).toNat) r c).toNat = _
  rw [Video.tileColor_toNat, htile, hbank]

/-! ### The sprite that decides a column -/

theorem mem_of_lowestX {l : List Sprite} {o : Sprite} (h : lowestX l = some o) : o ∈ l := by
  induction l with
  | nil => cases h
  | cons q l ih =>
    cases hl : lowestX l with
    | none =>
      simp only [lowestX, hl, Option.some.injEq] at h
      exact h ▸ List.mem_cons_self
    | some t =>
      simp only [lowestX, hl] at h
      split at h
      · exact List.mem_cons_of_mem _ (ih (hl.trans h))
      · exact Option.some.inj h ▸ List.mem_cons_self

/-- The sprite of lowest X, the first of those in the list (`60_exceptions.md` R1628). -/
theorem lowestX_eq_some {l1 l2 : List Sprite} {o : Sprite} (h1 : ∀ q ∈ l1, o.x.toNat < q.x.toNat)
    (h2 : ∀ q ∈ l2, o.x.toNat ≤ q.x.toNat) : lowestX (l1 ++ o :: l2) = some o := by
  induction l1 with
  | nil =>
    cases hl : lowestX l2 with
    | none => simp only [List.nil_append, lowestX, hl]
    | some t => simp only [List.nil_append, lowestX, hl, if_neg (Nat.not_lt.2 (h2 t (mem_of_lowestX hl)))]
  | cons q l1 ih =>
    have hq : o.x.toNat < q.x.toNat := h1 q List.mem_cons_self
    simp only [List.cons_append, lowestX, ih fun q' hq' => h1 q' (List.mem_cons_of_mem _ hq'), if_pos hq]

/-- The test of an opaque sprite (`60_exceptions.md` R1627). -/
def Video.solidAt (v : Video) (p : Ppu) (x y : Nat) (o : Sprite) : Bool := o.covers x && v.spriteColor p o x y != 0

theorem Video.solidAt_iff (v : Video) (p : Ppu) (x y : Nat) (o : Sprite) :
    v.solidAt p x y o = true ↔ Opaque v p x y o := by
  simp [Video.solidAt, Sprite.covers, Opaque, and_assoc]

/-- The winner is the first of the opaque sprites, or the first of lowest X (`60_exceptions.md` R1628, R1645). -/
theorem Video.winner_eq (v : Video) (p : Ppu) (l : List Sprite) (x y : Nat) :
    v.winner p l x y = if v.cgb then (l.filter (v.solidAt p x y)).head? else lowestX (l.filter (v.solidAt p x y)) := rfl

section Winner
variable {v : Video} {p : Ppu} {x y : Nat} {l1 l2 : List Sprite} {o : Sprite}

theorem filter_solidAt_eq_nil {l : List Sprite} (h : ∀ q ∈ l, ¬Opaque v p x y q) : l.filter (v.solidAt p x y) = [] :=
  List.filter_eq_nil_iff.2 fun q hq => mt (v.solidAt_iff p x y q).1 (h q hq)

theorem filter_solidAt_append_cons (ho : Opaque v p x y o) :
    (l1 ++ o :: l2).filter (v.solidAt p x y) = l1.filter (v.solidAt p x y) ++ o :: l2.filter (v.solidAt p x y) := by
  rw [List.filter_append, List.filter_cons_of_pos ((v.solidAt_iff p x y o).2 ho)]

theorem Video.winner_none {l : List Sprite} (h : ∀ q ∈ l, ¬Opaque v p x y q) : v.winner p l x y = none := by
  rw [Video.winner_eq, filter_solidAt_eq_nil h]
  exact ite_self none

/-- In DMG mode the opaque sprite of lowest X decides, the lower OAM index on a tie (`60_exceptions.md` R1628). -/
theorem Video.winner_dmg (hcgb : v.cgb = false) (ho : Opaque v p x y o)
    (h1 : ∀ q ∈ l1, Opaque v p x y q → o.x.toNat < q.x.toNat)
    (h2 : ∀ q ∈ l2, Opaque v p x y q → o.x.toNat ≤ q.x.toNat) : v.winner p (l1 ++ o :: l2) x y = some o := by
  rw [Video.winner_eq, filter_solidAt_append_cons ho, hcgb]
  refine lowestX_eq_some (fun q hq => ?_) (fun q hq => ?_) <;> obtain ⟨hmem, hsolid⟩ := List.mem_filter.1 hq
  · exact h1 q hmem ((v.solidAt_iff p x y q).1 hsolid)
  · exact h2 q hmem ((v.solidAt_iff p x y q).1 hsolid)

/-- In CGB mode the opaque sprite of lowest OAM index decides (`60_exceptions.md` R1645). -/
theorem Video.winner_cgb (hcgb : v.cgb = true) (ho : Opaque v p x y o) (h1 : ∀ q ∈ l1, ¬Opaque v p x y q) :
    v.winner p (l1 ++ o :: l2) x y = some o := by
  rw [Video.winner_eq, filter_solidAt_append_cons ho, filter_solidAt_eq_nil h1, if_pos hcgb]
  rfl

/-- The pixel the winning sprite decides. -/
theorem Video.pixel_of_winner {l : List Sprite} (h : v.winner p l x y = some o) :
    v.pixel p l x y =
      if v.hides p (v.bgPixel p x y) o then v.bgColor p (v.bgPixel p x y) else v.objColor p o (v.spriteColor p o x y) := by
  simp only [Video.pixel, h]

end Winner

/-- Whether the background hides a sprite, in DMG mode (`60_exceptions.md` R1628). -/
theorem Video.hides_dmg {v : Video} (hcgb : v.cgb = false) (p : Ppu) (b : BgPixel) (o : Sprite) :
    v.hides p b o = true ↔ o.attr.getLsbD 7 = true ∧ b.index ≠ 0 := by
  rw [Video.hides, hcgb, Bool.and_comm, Bool.and_eq_true, bne_iff_ne]
  rfl

/-- Whether the background hides a sprite, in CGB mode (`60_exceptions.md` R1644). -/
theorem Video.hides_cgb {v : Video} (hcgb : v.cgb = true) (p : Ppu) (b : BgPixel) (o : Sprite) :
    v.hides p b o = true ↔
      p.lcdc.getLsbD 0 = true ∧ b.index ≠ 0 ∧ (b.attr.getLsbD 7 = true ∨ o.attr.getLsbD 7 = true) := by
  rw [Video.hides, if_pos hcgb, Bool.and_eq_true, Bool.and_eq_true, Bool.or_eq_true, bne_iff_ne, and_left_comm]

/-- Settles O47: the winner is the head of the opaque sprites in the mode's order, and its pixel and color are those of
the tile and palette its entry names. -/
theorem spritePriority : Obligations.SpritePriority := by
  intro v p l x y b
  refine ⟨fun h => ?_, fun o _ _ _ _ => v.spriteColor_toNat p o x y, fun o i hcgb => ?_, fun o i hcgb => ?_, ?_⟩
  · simp only [Video.pixel, Video.winner_none h]
    rfl
  · rw [Video.objColor, if_pos hcgb, paletteColor_toNat]
    rfl
  · rw [Video.objColor, if_neg (Bool.eq_false_iff.1 hcgb), shadeOf_toNat]
  · rintro l1 o l2 rfl ho
    refine ⟨fun hcgb h1 h2 => ?_, fun hcgb h1 => ?_⟩
    · rw [Video.pixel_of_winner (Video.winner_dmg hcgb ho h1 h2)]
      simp only [Video.hides_dmg hcgb]
      rfl
    · rw [Video.pixel_of_winner (Video.winner_cgb hcgb ho h1)]
      simp only [Video.hides_cgb hcgb]
      rfl

end Sys2Proof.Machine
end

section
/-! PROOFS. The joypad (`60_exceptions.md` R1700-R1702): what P1 reads, and the request when a line falls. -/

namespace Sys2Proof.Machine

/-- The bits P1 reads: the lines, the select bits, and two bits that are 1 (`60_exceptions.md` R1700). -/
theorem Joypad.read_bits (j : Joypad) :
    (∀ i, i < 4 → j.read.getLsbD i = j.lines.getLsbD i) ∧ j.read.getLsbD 4 = j.sel.getLsbD 0 ∧
      j.read.getLsbD 5 = j.sel.getLsbD 1 ∧ j.read.getLsbD 6 = true ∧ j.read.getLsbD 7 = true := by
  have hbits : ∀ (sel : BitVec 2) (lines : BitVec 4),
      let r : Byte := 0b11#2 ++ sel ++ lines
      (∀ i, i < 4 → r.getLsbD i = lines.getLsbD i) ∧ r.getLsbD 4 = sel.getLsbD 0 ∧ r.getLsbD 5 = sel.getLsbD 1 ∧
        r.getLsbD 6 = true ∧ r.getLsbD 7 = true := by
    decide
  exact hbits j.sel j.lines

/-- Line `i` is 0 while its direction or its action button is selected and pressed (`60_exceptions.md` R1700). -/
theorem Joypad.lines_getLsbD (j : Joypad) {i : Nat} (hi : i < 4) :
    j.lines.getLsbD i =
      !j.low ([j.pressed.right, j.pressed.left, j.pressed.up, j.pressed.down].getD i false)
        ([j.pressed.a, j.pressed.b, j.pressed.select, j.pressed.start].getD i false) := by
  have hbits : ∀ b3 b2 b1 b0 : Bool,
      let l := BitVec.ofBool b3 ++ BitVec.ofBool b2 ++ BitVec.ofBool b1 ++ BitVec.ofBool b0
      l.getLsbD 0 = b0 ∧ l.getLsbD 1 = b1 ∧ l.getLsbD 2 = b2 ∧ l.getLsbD 3 = b3 := by
    decide
  obtain ⟨h0, h1, h2, h3⟩ := hbits (!j.low j.pressed.down j.pressed.start) (!j.low j.pressed.up j.pressed.select)
    (!j.low j.pressed.left j.pressed.b) (!j.low j.pressed.right j.pressed.a)
  interval_cases i
  · exact h0
  · exact h1
  · exact h2
  · exact h3

/-- Some line falls if the mask of falling lines is not 0. -/
theorem exists_falls_iff : ∀ x y : BitVec 4,
    (∃ i, i < 4 ∧ x.getLsbD i = true ∧ y.getLsbD i = false) ↔ x &&& ~~~y ≠ 0 := by
  decide

/-- Settles O57: P1 reads the lines, and both changes of the joypad request its interrupt by the lines that fall. -/
theorem joypadLines : Obligations.JoypadLines := by
  intro s v b line falls after
  have hline (j : Joypad) {i : Nat} (hi : i < 4) : j.lines.getLsbD i = line j i := j.lines_getLsbD hi
  have hfalls (j j' : Joypad) : falls j j' ↔ j.lines &&& ~~~j'.lines ≠ 0 := by
    rw [← exists_falls_iff]
    refine exists_congr fun i => and_congr_right fun hi => ?_
    rw [hline j hi, hline j' hi]
  have hset (j' : Joypad) : after j' (s.setJoypad j') := by
    refine ⟨fun h => ?_, fun h => ?_⟩ <;> unfold State.setJoypad
    · rw [if_neg ((hfalls _ _).1 h)]
      rfl
    · rw [if_pos (not_ne_iff.1 (mt (hfalls _ _).2 h))]
  obtain ⟨hlines, hrest⟩ := s.joypad.read_bits
  refine ⟨⟨_, s.peek_ioAt .p1 0x00, fun i hi => (hlines i hi).trans (hline _ hi), hrest⟩, ?_, hset _⟩
  refine ⟨_, s.write_ioAt v .p1 0x00, ?_⟩
  rw [extractLsb'_eq_ofNat v 4 2]
  exact hset _

end Sys2Proof.Machine
end

section
/-! PROOFS. The decoder and the encoder are inverse to each other (`30_encoding.md` sections 1-4). An opcode is its
fields and a register or condition is one of few, so each row is checked on its own; operand bytes stay unknown. -/

namespace Sys2Proof.Machine

/-! ### Decoding what is encoded -/

/-- A prefixed instruction at the head of a list of bytes. -/
theorem decode_prefixed_append (op2 : Byte) (rest : List Byte) :
    decode (0xCB :: op2 :: rest) = .ok (decodeSecondary op2, rest) := by
  have hlen : ¬(op2 :: rest).length + 1 < lengthOf 0xCB := by simp [lengthOf]
  rw [decode, if_neg (by simp), if_neg hlen]
  rfl

/-- The two bytes of a word, put together again. -/
theorem highByte_append_lowByte (nn : Word) : highByte nn ++ lowByte nn = nn := hi8_lo8 nn

/-- An instruction with a word operand: its opcode, then the low byte, then the high byte. -/
theorem decode_encode_word {f : Word → Instr} {op : Byte} (nn : Word) (rest : List Byte)
    (henc : encode (f nn) = [op, lowByte nn, highByte nn])
    (hdec : ∀ lo hi, decode (op :: lo :: hi :: rest) = .ok (f (hi ++ lo), rest)) :
    decode (encode (f nn) ++ rest) = .ok (f nn, rest) := by
  rw [henc]
  refine (hdec _ _).trans ?_
  rw [highByte_append_lowByte]

/-- Settles O25: each row's bytes decode to it, the values of its register, condition and bit fields tried one by one; a
word operand is its two bytes put together again. -/
theorem decodeOfEncode : Obligations.DecodeOfEncode := by
  intro i rest hw
  cases i
  case prefixCb => exact absurd hw (by decide)
  case addAR r | adcAR r | subR r | sbcAR r | andR r | xorR r | orR r | cpR r | incR r | decR r | ldRHl r | ldHlR r
      | ldRN r _ => cases r <;> rfl
  case ldRR dst src => cases dst <;> cases src <;> rfl
  case addHlRr p | incRr p | decRr p | push p | pop p => cases p <;> rfl
  case jrCc cc e | retCc cc => cases cc <;> rfl
  case rst t => obtain ⟨t⟩ := t; fin_cases t <;> rfl
  case ldRrN p nn => cases p <;> exact decode_encode_word nn rest rfl fun _ _ => rfl
  case jpCc cc nn | callCc cc nn => cases cc <;> exact decode_encode_word nn rest rfl fun _ _ => rfl
  case ldAA16 nn | ldA16A nn | ldA16Sp nn | jp nn | call nn => exact decode_encode_word nn rest rfl fun _ _ => rfl
  case rlcR r | rrcR r | rlR r | rrR r | slaR r | sraR r | swapR r | srlR r =>
    cases r <;> exact decode_prefixed_append _ rest
  case rlcHl | rrcHl | rlHl | rrHl | slaHl | sraHl | swapHl | srlHl => exact decode_prefixed_append _ rest
  case bitR k r | resR k r | setR k r =>
    obtain ⟨k⟩ := k
    fin_cases k <;> cases r <;> exact decode_prefixed_append _ rest
  case bitHl k | resHl k | setHl k =>
    obtain ⟨k⟩ := k
    fin_cases k <;> exact decode_prefixed_append _ rest
  all_goals rfl

/-! ### Encoding what is decoded -/

/-- A prefixed instruction's bytes are 0xCB and its second byte. -/
theorem encode_decodeSecondary (op2 : Byte) : encode (decodeSecondary op2) = [0xCB, op2] := by
  rw [byte_eq_fields op2]
  obtain ⟨quarter⟩ := op2.extractLsb' 6 2
  obtain ⟨y⟩ := op2.extractLsb' 3 3
  obtain ⟨z⟩ := op2.extractLsb' 0 3
  fin_cases quarter <;> fin_cases z <;> fin_cases y <;> rfl

/-- An instruction of the primary space: its bytes are its opcode and, as far as its length goes, its operand. -/
theorem encode_decodePrimary (op : Byte) (nn : Word) :
    encode (decodePrimary op (lowByte nn) nn) =
      [op, lowByte nn, highByte nn].take (decodePrimary op 0 0).length := by
  rw [byte_eq_fields op]
  obtain ⟨quarter⟩ := op.extractLsb' 6 2
  obtain ⟨y⟩ := op.extractLsb' 3 3
  obtain ⟨z⟩ := op.extractLsb' 0 3
  fin_cases quarter <;> fin_cases z <;> fin_cases y <;> rfl

theorem Instr.length_range (i : Instr) : 1 ≤ i.length ∧ i.length ≤ 3 := by
  unfold Instr.length
  split <;> decide

theorem lengthOf_range (op : Byte) : 1 ≤ lengthOf op ∧ lengthOf op ≤ 3 := by
  unfold lengthOf
  split
  · decide
  · exact Instr.length_range _

/-- What three bytes decode to has its opcode and, as far as its length goes, the bytes after it. -/
theorem encode_decodeBytes (op b2 b3 : Byte) : encode (decodeBytes op b2 b3) = [op, b2, b3].take (lengthOf op) := by
  by_cases hop : op = 0xCB#8
  · rw [decodeBytes, lengthOf, if_pos hop, if_pos hop, hop, encode_decodeSecondary]
    rfl
  · have hlow : lowByte (b3 ++ b2) = b2 := lo8_append b2 b3
    have hhigh : highByte (b3 ++ b2) = b3 := hi8_append b2 b3
    have henc := encode_decodePrimary op (b3 ++ b2)
    rw [hlow, hhigh] at henc
    rw [decodeBytes, lengthOf, if_neg hop, if_neg hop, henc]

/-- A list is its first one or two bytes and the bytes after them. -/
theorem take_getD_append_drop {tl : List Byte} {n : Nat} (hn : n ≤ 2) (hlen : n ≤ tl.length) :
    [tl.getD 0 0, tl.getD 1 0].take n ++ tl.drop n = tl := by
  match n, tl with
  | 0, _ => rfl
  | 1, _ :: _ => rfl
  | 2, _ :: _ :: _ => rfl

/-- Settles O26: what the decoder reads is the first bytes of the list, and the encoding is these bytes. -/
theorem encodeOfDecode : Obligations.EncodeOfDecode := by
  intro bytes rest i hd hw
  cases bytes with
  | nil => cases hd
  | cons op tl =>
    rw [decode] at hd
    split_ifs at hd with hcb hshort
    · cases hd
      exact absurd hw (by decide)
    · cases hd
      obtain ⟨hlo, hhi⟩ := lengthOf_range op
      obtain ⟨n, hn⟩ : ∃ n, lengthOf op = n + 1 := ⟨lengthOf op - 1, by omega⟩
      rw [encode_decodeBytes, hn]
      exact congrArg (op :: ·) (take_getD_append_drop (by omega) (by omega)).symm

/-! ### Words of the opcode maps -/

/-- Settles O27: the decoder computes each word's instruction. -/
theorem wordsOfTheMaps : Obligations.WordsOfTheMaps :=
  ⟨rfl, rfl, rfl, rfl, rfl, rfl, rfl, rfl, rfl, rfl⟩

end Sys2Proof.Machine
end

section
/-! PROOFS. What every step keeps: the invariant of the machine, and the loaded image. An instruction is reads, writes
and changes of the CPU's own part, so what these, the divider and the devices keep, a step keeps. -/

namespace Sys2Proof.Machine

/-! ### The invariant -/

/-- The parts an instruction is built from keep the invariant; only a write reaches anything it speaks of. -/
theorem closed_inv : Closed State.Inv where
  cpu _ _ h := h
  draw _ _ h := h
  write _ _ _ _ h hw := State.write_inv h hw
  div _ h := h

/-- Settles O33: an instruction keeps it by its writes, the devices' advance by the picture unit's ticks. -/
theorem stepKeepsInv : Obligations.StepKeepsInv := fun _ _ h hstep =>
  step_keeps closed_inv (fun _ _ h => h) (fun _ h => State.elapse_inv h) hstep h

/-- Settles O34: nothing is written yet, and the picture unit is at the start of a frame. -/
theorem resetMeetsInv : Obligations.ResetMeetsInv := by
  have hfb : State.reset.ppu.fb = List.replicate 144 (List.replicate 160 0#15) := rfl
  have hframe : State.reset.FrameShaped := by
    refine ⟨by rw [hfb, List.length_replicate], fun row hrow => ?_, fun _ => rfl⟩
    rw [hfb] at hrow
    rw [List.eq_of_mem_replicate hrow, List.length_replicate]
  have hsized : State.reset.MemSized := ⟨rfl, rfl, rfl, rfl, rfl, rfl, rfl, fun _ _ h => by cases h⟩
  have hppu : State.reset.ppu.Scheduled := by
    unfold Ppu.Scheduled
    decide
  exact ⟨State.reset_memWf, hsized, hppu, hframe, rfl, by decide⟩

/-! ### The loaded image -/

/-- The type of a controller: its number, and for MBC5 whether it is a rumble type. -/
def Controller.kind : Controller → Nat × Bool
  | .romOnly => (0, false)
  | .mbc1 .. => (1, false)
  | .mbc2 .. => (2, false)
  | .mbc3 .. => (3, false)
  | .mbc5 rumble .. => (5, rumble)

theorem sameKind_iff (c d : Controller) : sameKind c d ↔ c.kind = d.kind := by
  cases c <;> cases d <;> simp [sameKind, Controller.kind]

theorem sameKind_trans {c d e : Controller} (h1 : sameKind c d) (h2 : sameKind d e) : sameKind c e :=
  (sameKind_iff c e).2 (((sameKind_iff c d).1 h1).trans ((sameKind_iff d e).1 h2))

/-- What a load fixes is in `t` as it is in `s`, and a boot ROM unmapped in `s` is unmapped in `t` (`10_state.md` R134,
`20_memory.md` R320). -/
structure State.SameImage (s t : State) : Prop where
  cfg : t.cfg = s.cfg
  rom : t.cart.rom = s.cart.rom
  romLen : t.cart.romLen = s.cart.romLen
  ramLen : t.cart.ramLen = s.cart.ramLen
  battery : t.cart.battery = s.cart.battery
  kind : sameKind s.cart.ctrl t.cart.ctrl
  pressed : t.joypad.pressed = s.joypad.pressed
  boot : s.bootMapped = false → t.bootMapped = false

theorem State.SameImage.refl (s : State) : s.SameImage s where
  cfg := rfl
  rom := rfl
  romLen := rfl
  ramLen := rfl
  battery := rfl
  kind := (sameKind_iff _ _).2 rfl
  pressed := rfl
  boot h := h

variable {s t u : State}

/-- A change of anything else than the image. -/
theorem State.SameImage.of_eq (h : s.SameImage t) (hcfg : u.cfg = t.cfg := by rfl) (hcart : u.cart = t.cart := by rfl)
    (hjoypad : u.joypad = t.joypad := by rfl) (hboot : u.bootMapped = t.bootMapped := by rfl) : s.SameImage u where
  cfg := hcfg.trans h.cfg
  rom := (congrArg Cart.rom hcart).trans h.rom
  romLen := (congrArg Cart.romLen hcart).trans h.romLen
  ramLen := (congrArg Cart.ramLen hcart).trans h.ramLen
  battery := (congrArg Cart.battery hcart).trans h.battery
  kind := hcart ▸ h.kind
  pressed := (congrArg Joypad.pressed hjoypad).trans h.pressed
  boot hs := hboot.trans (h.boot hs)

/-- A write of an I/O register changes P1's select bits and may unmap the boot ROM, but nothing else of the image. -/
theorem State.SameImage.writeIo {r : IoReg} {v : Byte} (h : s.SameImage t) (hw : t.writeIo r v = .ok u) :
    s.SameImage u := by
  have hboot (hs : s.bootMapped = false) := State.writeIo_bootMapped (h.boot hs) hw
  cases r
  case key1 => simp only [State.writeIo] at hw; split at hw <;> cases hw; exact h
  case hdma5 => cases hw
  case p1 => cases hw; exact { h with }
  case lcdc => cases hw; unfold State.writeLcdc; dsimp only; split_ifs <;> exact h.of_eq
  case lyc => cases hw; unfold State.writeLyc; split <;> exact h.of_eq
  case boot => cases hw; split <;> [exact { h with boot := fun _ => rfl }; exact h]
  all_goals cases hw; exact h.of_eq

/-- A write is a command to the controller, which keeps its type, a change of RAM, or one of a register. -/
theorem State.SameImage.write {a : Word} {v : Byte} (h : s.SameImage t) (hw : t.write a v = .ok u) : s.SameImage u := by
  refine State.write_cases hw (fun _ => ?_) (fun _ => h.of_eq) (fun _ _ _ => h.of_eq) (fun _ _ _ => { h with })
    (fun _ _ => h.of_eq) (fun _ _ _ => h.of_eq) (fun _ _ => h.of_eq) (fun _ => h.of_eq)
    (fun r w _ _ hw => h.writeIo hw) (fun w _ _ hw => ?_)
  · exact { h with kind := sameKind_trans h.kind (Controller.sameKind_command _ _ _) }
  · rw [State.dmaCopy_ok _ _ _ hw]
    exact h.of_eq

theorem closed_sameImage (s : State) : Closed s.SameImage where
  cpu _ _ h := h.of_eq
  draw _ _ h := h.of_eq
  write _ _ _ _ h hw := h.write hw
  div _ h := h.of_eq

theorem State.SameImage.elapse (h : s.SameImage t) : s.SameImage t.elapse := by
  unfold State.elapse State.serialAdvance State.serialEvent
  split_ifs <;> exact h.of_eq

/-- Settles O36: of what a step is built from, only a write reaches the image, and no write changes more of it than the
controller's latches, the RAM and P1's select bits, or does more to the boot ROM than unmap it. -/
theorem loadedImageStays : Obligations.LoadedImageStays := by
  intro s t hstep
  have h : s.SameImage t :=
    step_keeps (closed_sameImage s) (fun _ _ h => h.of_eq) (fun _ h => h.elapse) hstep (State.SameImage.refl s)
  exact ⟨h.cfg, h.rom, h.romLen, h.ramLen, h.battery, h.kind, h.pressed, h.boot⟩

end Sys2Proof.Machine
end

section
/-! PROOFS. The step around an instruction: the instruction decoded at pc runs, STOP and HALT and the steps of a stopped
or halted CPU (`47_system.md` R1300, R1311, R1312). -/

namespace Sys2Proof.Machine

/-! ### An instruction's step -/

/-- What follows an instruction that raised a mark: the mark alone. -/
theorem State.afterCpu_afterInstr_marked (s : State) {t : State} (h : t.fatal ≠ none ∨ t.refused ≠ none) :
    s.afterCpu (afterInstr (.next t)) = .next { s with fatal := t.fatal, refused := t.refused } := by
  have hmark : afterInstr (.next t) = .next t := by
    rw [afterInstr, if_pos (by simpa [Option.isSome_iff_ne_none] using h)]
  rw [hmark, State.afterCpu_marked s h]

/-- Settles O28: the fetch gives the instruction its bytes decode to, and its outcome decides what follows. -/
theorem stepRunsDecoded : Obligations.StepRunsDecoded := by
  intro s i bytes hlive hexec hdecode hwf hbytes t ht
  have hstep : step s = s.afterCpu (afterInstr (.next t)) := by
    rw [step_executes hlive hexec (State.fetch_decoded s i bytes hdecode hwf hbytes), ht]
  refine ⟨fun hf hr => ?_, fun hmark => ?_⟩
  · rw [hstep, State.afterCpu_afterInstr s hf hr, State.countdown_eq]
    rfl
  · rw [hstep, State.afterCpu_afterInstr_marked s hmark]

/-! ### STOP and HALT -/

/-- HALT halts, or with IME off and an interrupt pending arms the HALT bug (`47_system.md` R1312). -/
theorem exec_halt (s : State) :
    exec .halt s = .next
      (if !s.ime && s.pending != 0 then { s.stepTo s 1 4 s.regs with haltBug := true }
      else { s.stepTo s 1 4 s.regs with halted := true }) := by
  show s.conclude (.ok ((if !s.ime && s.pending != 0 then { s.advance 1 with haltBug := true }
    else { s.advance 1 with halted := true }).cost 4)) = _
  rw [State.advance_eq_with s 1 (by decide), apply_ite (State.cost · 4)]
  rfl

theorem halt_arms_iff (s : State) : (!s.ime && s.pending != 0) = true ↔ s.ime = false ∧ s.Pending := by
  rw [Bool.and_eq_true, Bool.not_eq_true', State.pending_iff]

/-- In no cycle the devices do nothing. -/
theorem State.devices_zero (s : State) : s.devices 0 = s := by
  rw [State.devices, State.serialAdvance_zero, State.ppuAdvance_zero]
  rfl

/-- A stopped step (`60_exceptions.md` R1792). -/
theorem step_stopped {s : State} (hlive : s.Live) (hstop : s.stopped = true) : step s = .next { s with cycles := 0 } := by
  have hidle : s.idle = some (.next { s with cycles := 0 }) := by
    rw [State.idle, if_pos hstop]
    rfl
  rw [step_live hlive, hidle]
  exact (s.afterCpu_clean (t := { s with cycles := 0 }) hlive.1 hlive.2.1).trans (by rw [State.devices_zero])

/-- A halted step (`47_system.md` R1312). -/
theorem step_halted {s : State} (hlive : s.Live) (hstop : s.stopped = false) (hhalt : s.halted = true) :
    step s = .next ({ s with halted := s.pending == 0, cycles := 4 }.devices 4) := by
  have hidle : s.idle = some (.next { s with halted := s.pending == 0, cycles := 4 }) := by
    rw [State.idle, if_neg (by simp [hstop]), if_pos hhalt]
    rfl
  rw [step_live hlive, hidle]
  exact s.afterCpu_clean (t := { s with halted := s.pending == 0, cycles := 4 }) hlive.1 hlive.2.1

/-- Settles O18: the two instructions leave the state named, and a stopped or halted CPU executes none. -/
theorem stopHaltResults : Obligations.StopHaltResults := by
  intro s x
  obtain ⟨hstop, -⟩ := timerRegisterWrites s x
  refine ⟨⟨⟨rfl, rfl⟩, hstop⟩, ⟨⟨rfl, rfl⟩, fun h => ?_, fun h => ?_⟩, step_stopped, fun hlive hs hh => ?_,
    fun hbug => ?_, rfl⟩
  · rw [exec_halt, if_pos ((halt_arms_iff s).2 h)]
  · rw [exec_halt, if_neg (mt (halt_arms_iff s).1 h)]
  · rw [step_halted hlive hs hh]
    refine ⟨fun hp => ?_, fun hp => ?_⟩
    · have : (s.pending == 0) = false := by simpa using s.pending_iff.2 hp
      rw [this]
    · have : (s.pending == 0) = true := by simpa using mt s.pending_iff.1 hp
      rw [this, ← hh]
  · have hnext (n : Nat) : s.nextPc n = s.pc + BitVec.ofNat 16 n - 1 := if_pos hbug
    refine ⟨rfl, ?_, ?_, ?_, if_pos hbug⟩
    · simp [State.fetchAddr, State.operandAddr, hbug]
    · rw [hnext]
      exact BitVec.add_sub_cancel _ _
    · rw [hnext]
      bv_omega

end Sys2Proof.Machine
end

section
/-! PROOFS. The bus: where plain RAM lies, reads, video memory under its lock, OAM DMA, the serial port
(`20_memory.md` R311-R340, `60_exceptions.md` R1720). -/

namespace Sys2Proof.Machine

/-! ### Plain RAM -/

/-- High RAM on the bus (`20_memory.md` R321). -/
theorem State.target_hram (s : State) {a : Word} (hlo : 0xFF80 ≤ a.toNat) (hhi : a.toNat ≤ 0xFFFE) :
    s.target a = .hram (a.toNat - 0xFF80) := by
  unfold State.target
  dsimp only
  repeat rw [if_neg (by omega)]
  rw [if_pos hhi]

/-- IE on the bus (`20_memory.md` R321). -/
theorem State.target_ie (s : State) {a : Word} (h : a.toNat = 0xFFFF) : s.target a = .ie := by
  unfold State.target
  dsimp only
  repeat rw [if_neg (by omega)]

/-- Settles O23: each range of addresses is one memory, and a write to plain RAM is a write to one cell of it. -/
theorem ramWriteReadsBack : Obligations.RamWriteReadsBack := by
  refine ⟨fun s a => ⟨fun hdmg => ⟨fun hlo hhi => ?_, fun hlo hhi => ?_⟩, s.target_hram, s.target_ie, fun h => ?_⟩,
    fun s a v h => ?_⟩
  · rw [s.target_wram hlo (by omega), State.wramOffset, if_pos (by omega)]
  · rw [s.target_wram (by omega) hhi, State.wramOffset, if_neg (by omega), State.wramBank, hdmg,
      if_neg Bool.false_ne_true, Nat.one_mul]
  · have ha := a.isLt
    rcases h with ⟨hlo, hhi⟩ | hlo
    · rw [s.target_wram hlo hhi]
      trivial
    · by_cases hie : a.toNat = 0xFFFF
      · rw [s.target_ie hie]
        trivial
      · rw [s.target_hram hlo (by omega)]
        trivial
  · obtain ⟨u, hw, htarget, hself, hother, -, hu⟩ := State.write_plain v h
    refine ⟨u, hw, ?_, fun b hb => ?_, hu⟩
    · rw [State.peek, htarget, hself]
    · rw [State.peek, htarget, hother b hb, State.peek]

/-! ### Reads -/

/-- The audio registers' addresses (`10_state.md` R158). -/
theorem State.target_audio (s : State) {a : Word}
    (h : (0xFF10 ≤ a.toNat ∧ a.toNat ≤ 0xFF26) ∨ (0xFF30 ≤ a.toNat ∧ a.toNat ≤ 0xFF3F)) :
    s.target a = .io .audio := by
  refine s.target_io (n := a.toNat - 0xFF00) (by omega) (by omega) ?_
  unfold ioRegAt
  exact if_pos (by omega)

/-- Settles O24: a read gives its byte or takes the next draw, and an audio register is one that draws. -/
theorem readsHaveNoSideEffect : Obligations.ReadsHaveNoSideEffect := by
  intro s a
  refine ⟨fun b => State.read_byte, fun b u h => ?_, fun h => ?_⟩
  · have hu := State.read_ok h
    refine ⟨hu, fun c => ?_⟩
    rw [hu, State.peek_draws]
  · have htarget := s.target_audio h
    have hpeek : s.peek a = .draw := State.peek_io htarget
    refine ⟨hpeek, ⟨Config.freeByte s.draws, ?_⟩, fun v => State.write_io v (by decide) htarget⟩
    rw [State.read, hpeek]
    rfl

/-! ### The serial port -/

/-- Settles O58: the event draws once if a transfer is in progress, and SB and SC are two registers on the bus. -/
theorem serialTransferEnds : Obligations.SerialTransferEnds := by
  intro s v
  refine ⟨fun n => rfl, fun hidle => ?_, fun hbusy => ?_, s.write_ioAt v .sb 0x01, s.write_ioAt v .sc 0x02⟩
  · rw [State.serialEvent, if_neg (by simp [hidle])]
  · rw [State.serialEvent, if_pos hbusy]
    cases Config.freeBit s.draws with
    | false => exact .inl rfl
    | true => exact .inr ⟨Config.freeByte s.draws, rfl⟩

/-! ### Video memory under its lock (`20_memory.md` R322) -/

/-- VRAM on the bus. -/
theorem State.target_vram (s : State) {a : Word} (hlo : 0x8000 ≤ a.toNat) (hhi : a.toNat ≤ 0x9FFF) :
    s.target a = .vram (s.vramBank * 0x2000 + (a.toNat - 0x8000)) := by
  unfold State.target
  dsimp only
  rw [if_neg (by omega), if_pos hhi]

/-- OAM on the bus. -/
theorem State.target_oam (s : State) {a : Word} (hlo : 0xFE00 ≤ a.toNat) (hhi : a.toNat ≤ 0xFE9F) :
    s.target a = .oam (a.toNat - 0xFE00) := by
  unfold State.target
  dsimp only
  repeat rw [if_neg (by omega)]
  rw [if_pos hhi]

theorem State.vramBusy_iff (s : State) : s.vramBusy = true ↔ s.ppu.lcdc.getLsbD 7 = true ∧ s.ppu.mode = .transfer := by
  simp [State.vramBusy, Ppu.on]

theorem State.oamBusy_iff (s : State) :
    s.oamBusy = true ↔ s.ppu.lcdc.getLsbD 7 = true ∧ (s.ppu.mode = .transfer ∨ s.ppu.mode = .oamScan) := by
  simp [State.oamBusy, Ppu.on, or_comm]

/-- The three policies, on a memory that reads `lockedRead` of a byte and is written by `lockedWrite` of a state: `busy`
is when the picture unit uses it. -/
theorem State.lock_policies {s stored : State} {a : Word} {v held : Byte} {busy : Prop} {b : Bool} (hb : b = true ↔ busy)
    (hpeek : s.peek a = lockedRead s.cfg.videoLock b held) (hwrite : s.write a v = .ok (s.lockedWrite b stored)) :
    (¬busy ∨ s.cfg.videoLock = .free → s.peek a = .byte held ∧ s.write a v = .ok stored) ∧
      (busy → s.cfg.videoLock = .locked → s.peek a = .byte 0xFF ∧ s.write a v = .ok s) ∧
      (busy → s.cfg.videoLock = .unknown → s.peek a = .draw ∧
        (s.write a v = .ok { stored with draws := s.draws + 1 } ∨ s.write a v = .ok { s with draws := s.draws + 1 })) := by
  rw [hpeek, hwrite]
  unfold lockedRead State.lockedWrite
  refine ⟨fun h => ?_, fun hbusy hlock => ?_, fun hbusy hlock => ?_⟩
  · rcases h with hidle | hlock
    · rw [if_neg (mt hb.1 hidle), if_neg (mt hb.1 hidle)]
      exact ⟨rfl, rfl⟩
    · rw [hlock]
      exact ⟨ite_self _, congrArg _ (ite_self _)⟩
  · rw [if_pos (hb.2 hbusy), if_pos (hb.2 hbusy), hlock]
    exact ⟨rfl, rfl⟩
  · rw [if_pos (hb.2 hbusy), if_pos (hb.2 hbusy), hlock]
    cases Config.freeBit s.draws with
    | false => exact ⟨rfl, .inr rfl⟩
    | true => exact ⟨rfl, .inl rfl⟩

/-- Settles O55: VRAM and OAM are the two memories that the lock's policies govern. -/
theorem videoLockPolicy : Obligations.VideoLockPolicy := by
  intro s a v vram oam busy bank stored held h
  by_cases hvram : vram
  · have hbusy : s.vramBusy = true ↔ busy := by
      have hoam : ¬oam := by omega
      simp [State.vramBusy_iff, busy, hvram, hoam]
    have htarget := s.target_vram hvram.1 hvram.2
    have hheld : held = s.video.vramByte (s.vramBank * 0x2000 + (a.toNat - 0x8000)) := if_pos hvram
    have hstored : stored = { s with vram := Memory.write s.vram (s.vramBank * 0x2000 + (a.toNat - 0x8000)) v } :=
      if_pos hvram
    rw [hheld, hstored]
    exact State.lock_policies hbusy (by rw [State.peek, htarget]; rfl) (by rw [State.write, htarget]; rfl)
  · have hoam : oam := h.resolve_left hvram
    have hbusy : s.oamBusy = true ↔ busy := by simp [State.oamBusy_iff, busy, hvram, hoam]
    have htarget := s.target_oam hoam.1 hoam.2
    have hheld : held = s.video.oamByte (a.toNat - 0xFE00) := if_neg hvram
    have hstored : stored = { s with oam := Memory.write s.oam (a.toNat - 0xFE00) v } := if_neg hvram
    rw [hheld, hstored]
    exact State.lock_policies hbusy (by rw [State.peek, htarget]; rfl) (by rw [State.write, htarget]; rfl)

end Sys2Proof.Machine
end

section
/-! PROOFS. OAM DMA (`20_memory.md` R340). The copy reads below 0xE000, where neither OAM nor the DMA register is, so
every byte it reads is the one the page had before. -/

namespace Sys2Proof.Machine

/-- Below 0xE000 lies neither OAM nor any I/O register (`20_memory.md` R311). -/
theorem State.target_below_echo (s : State) {a : Word} (ha : a.toNat ≤ 0xDFFF) :
    (∀ i, s.target a ≠ .oam i) ∧ ∀ r, s.target a ≠ .io r := by
  unfold State.target
  dsimp only
  rw [if_pos ha]
  split_ifs <;> exact ⟨fun _ => Target.noConfusion, fun _ => Target.noConfusion⟩

/-- What lies below 0xE000 reads the same whatever OAM and the DMA register hold. -/
theorem State.peek_dma_oam (s : State) {a : Word} (ha : a.toNat ≤ 0xDFFF) (d : Byte) (m : Memory) :
    { s with dma := d, oam := m }.peek a = s.peek a := by
  have htarget : { s with dma := d, oam := m }.target a = s.target a := State.target_congr a rfl rfl rfl rfl rfl rfl
  obtain ⟨hoam, hio⟩ := s.target_below_echo ha
  rw [State.peek, State.peek, htarget]
  cases ht : s.target a with
  | oam i => exact absurd ht (hoam i)
  | io r => exact absurd ht (hio r)
  | _ => rfl

/-- The copy of `n` bytes from byte `i` on puts them, and nothing else, in OAM. -/
theorem State.dmaCopy_page {s : State} {v : Byte} {page : Nat → Byte} (d : Byte)
    (hpage : ∀ j, j < 160 → s.peek (word v (BitVec.ofNat 8 j)) = .byte (page j)) (hv : v.toNat ≤ 0xDF) (n i : Nat)
    (hn : i + n ≤ 160) (m : Memory) :
    ∃ m', State.dmaCopy v n i { s with dma := d, oam := m } = .ok { s with dma := d, oam := m' } ∧
      ∀ init j, Memory.get m' init j = if i ≤ j ∧ j < i + n then page j else Memory.get m init j := by
  induction n generalizing i m with
  | zero => exact ⟨m, rfl, fun init j => (if_neg (by omega)).symm⟩
  | succ n ih =>
    have hbelow : (word v (BitVec.ofNat 8 i)).toNat ≤ 0xDFFF := by
      rw [word, BitVec.toNat_append, ← Nat.shiftLeft_add_eq_or_of_lt (BitVec.isLt _), Nat.shiftLeft_eq]
      have := (BitVec.ofNat 8 i).isLt
      omega
    have hread : State.read { s with dma := d, oam := m } (word v (BitVec.ofNat 8 i)) =
        .ok (page i, { s with dma := d, oam := m }) :=
      State.read_byte (by rw [s.peek_dma_oam hbelow, hpage i (by omega)])
    obtain ⟨m', hcopy, hget⟩ := ih (i + 1) (by omega) (Memory.write m i (page i))
    refine ⟨m', ?_, fun init j => ?_⟩
    · rw [State.dmaCopy, hread]
      exact hcopy
    · rw [hget, Memory.get_write]
      by_cases hj : j = i
      · subst hj
        rw [if_neg (by omega), if_pos rfl, if_pos (by omega)]
      · simp only [if_neg hj, show i + 1 ≤ j ∧ j < i + 1 + n ↔ i ≤ j ∧ j < i + (n + 1) by omega]

/-- A write of the DMA register (`20_memory.md` R340). -/
theorem State.write_dmaReg (s : State) (v : Byte) : s.write 0xFF46 v = s.writeDma v := by
  rw [State.write, s.target_io (n := 0x46) (r := .dma) rfl (by decide) rfl]
  rfl

/-- Settles O54: a legal page's copy is that of 160 bytes from the first on. -/
theorem oamDmaCopiesPage : Obligations.OamDmaCopiesPage := by
  refine ⟨fun s v hv => ?_, fun s v page hv hpage => ?_⟩
  · rw [State.write_dmaReg, State.writeDma, if_neg (by omega)]
  · obtain ⟨m, hcopy, hget⟩ := State.dmaCopy_page v hpage hv 160 0 (by omega) s.oam
    refine ⟨{ s with dma := v, oam := m }, ?_, rfl, fun i hi => ?_⟩
    · rw [State.write_dmaReg, State.writeDma, if_pos hv]
      exact hcopy
    · exact (hget _ i).trans (if_pos (by omega))

end Sys2Proof.Machine
end

section
/-! PROOFS. One cycle of the picture unit (`60_exceptions.md` R1601-R1605, R1620, R1624): what it requests, the
coincidence flag, the length of mode 3, and the row it draws. -/

namespace Sys2Proof.Machine

/-! ### The bits of a request -/

/-- A request sets its own bit and no other (`60_exceptions.md` R1402). -/
theorem requestBit_getLsbD (ifl : BitVec 5) {k : Nat} (hk : k < 5) (j : Nat) :
    (requestBit ifl k).getLsbD j = (ifl.getLsbD j || decide (j = k)) := by
  have hone : (1#5 <<< k).getLsbD j = decide (j = k) := by
    rw [BitVec.getLsbD_shiftLeft, BitVec.getLsbD_one, Bool.eq_iff_iff]
    simp
    omega
  rw [requestBit, BitVec.getLsbD_or, hone]

/-- A STAT request under a condition. -/
theorem statRequest_getLsbD (ifl : BitVec 5) (on : Bool) (j : Nat) :
    (statRequest ifl on).getLsbD j = (ifl.getLsbD j || (on && decide (j = 1))) := by
  cases on with
  | false => exact (Bool.or_false _).symm
  | true => exact requestBit_getLsbD ifl (by decide) j

/-- Two STAT requests are one. -/
theorem statRequest_statRequest (ifl : BitVec 5) (a b : Bool) :
    statRequest (statRequest ifl a) b = statRequest ifl (a || b) := by
  cases a <;> cases b
  case true.true =>
    show (ifl ||| _) ||| _ = ifl ||| _
    rw [BitVec.or_assoc, BitVec.or_self]
  all_goals rfl

/-! ### The requests of a cycle -/

/-- LY after a line. -/
def Ppu.nextLy (p : Ppu) : Nat := if p.ly = 153 then 0 else p.ly + 1

/-- Whether a cycle enters mode 0 (`60_exceptions.md` R1601). -/
def Ppu.toHblank (p : Ppu) : Bool := decide (p.ly < 144 ∧ p.dot + 1 = 80 + p.mode3Len)

/-- Whether a cycle that ends a line requests the STAT interrupt (`60_exceptions.md` R1604, R1605). -/
def Ppu.lineStat (p : Ppu) : Bool :=
  (decide (p.ly = 143) && p.selVblank) || (decide (p.nextLy < 144) && p.selOam) ||
    (p.nextLy == p.lyc.toNat && p.selLyc)

theorem Ppu.Scheduled.mode3Len_range {p : Ppu} (h : p.Scheduled) : 172 ≤ p.mode3Len ∧ p.mode3Len ≤ 289 := by
  obtain ⟨hlo, hhi, -⟩ := h
  exact ⟨hlo, hhi⟩

theorem Ppu.Scheduled.ly_le {p : Ppu} (h : p.Scheduled) (hon : p.on = true) : p.ly ≤ 153 := by
  obtain ⟨-, -, -, hs⟩ := h
  rw [if_pos hon] at hs
  exact hs.2.1

/-- LY after a line, by the line. -/
theorem Ppu.nextLy_of_lt {p : Ppu} (h : p.ly < 153) : p.nextLy = p.ly + 1 := if_neg (by omega)

theorem Ppu.nextLy_last {p : Ppu} (h : p.ly = 153) : p.nextLy = 0 := if_pos h

/-- What the start of a line requests. -/
theorem nextLine_ifl {p : Ppu} (ifl : BitVec 5) (hly : p.ly ≤ 153) :
    (nextLine (p, ifl)).2 = statRequest (if p.ly = 143 then requestBit ifl 0 else ifl) p.lineStat := by
  have hcompare (x : PpuIf) : (compareLy x).2 = statRequest x.2 (x.1.ly == x.1.lyc.toNat && x.1.selLyc) := rfl
  rcases nextLine_cases p ifl hly with ⟨h, e⟩ | ⟨h, e⟩ | ⟨h, e⟩ | ⟨h, h', e⟩ <;>
    simp only [e, hcompare, statRequest_statRequest]
  · rw [if_pos h, Ppu.lineStat, Ppu.nextLy_of_lt (by omega), h, decide_eq_false (show ¬143 + 1 < 144 by omega),
      Bool.false_and, Bool.or_false]
    rfl
  · rw [if_neg (by omega), Ppu.lineStat, Ppu.nextLy_last h, h]
    rfl
  · rw [if_neg (by omega), Ppu.lineStat, Ppu.nextLy_of_lt (by omega), decide_eq_false (show ¬p.ly = 143 by omega),
      decide_eq_true (show p.ly + 1 < 144 by omega), Bool.false_and, Bool.false_or, Bool.true_and]
    rfl
  · rw [if_neg (by omega), Ppu.lineStat, Ppu.nextLy_of_lt h', decide_eq_false (show ¬p.ly = 143 by omega),
      decide_eq_false (show ¬p.ly + 1 < 144 by omega), Bool.false_and, Bool.false_and, Bool.false_or, Bool.false_or]
    rfl

/-- What a cycle requests (`60_exceptions.md` R1603-R1605). -/
theorem Video.tick_ifl (v : Video) {p : Ppu} (ifl : BitVec 5) (h : p.Scheduled) (hon : p.on = true) :
    (v.tick (p, ifl)).2 = statRequest (if p.dot = 455 ∧ p.ly = 143 then requestBit ifl 0 else ifl)
      ((p.toHblank && p.selHblank) || (decide (p.dot = 455) && p.lineStat)) := by
  have hlen := h.mode3Len_range
  rcases v.tick_cases p ifl h hon with ⟨h1, h2, e⟩ | ⟨h1, h2, -, e⟩ | ⟨h1, e⟩ | ⟨h1, h2, e⟩ <;> rw [e]
  · have hno : p.toHblank = false := decide_eq_false (by omega)
    rw [if_neg (by omega), hno, decide_eq_false (show ¬p.dot = 455 by omega)]
    rfl
  · have hyes : p.toHblank = true := decide_eq_true ⟨h1, h2⟩
    rw [if_neg (by omega), hyes, decide_eq_false (show ¬p.dot = 455 by omega), Bool.false_and, Bool.or_false,
      Bool.true_and]
  · have hno : p.toHblank = false := decide_eq_false (by omega)
    rw [nextLine_ifl (p := { p with dot := 456 }) ifl (h.ly_le hon), hno, decide_eq_true h1]
    simp only [h1, true_and]
    rfl
  · have hno : p.toHblank = false := decide_eq_false fun hb => (h2 hb.1).2 hb.2
    rw [if_neg (by omega), hno, decide_eq_false (show ¬p.dot = 455 by omega)]
    rfl

/-! ### What else a cycle does -/

/-- The start of a line: LY and its comparison, and the window's line counter (`60_exceptions.md` R1601, R1605). -/
theorem nextLine_fst {p : Ppu} (ifl : BitVec 5) (hly : p.ly ≤ 153) :
    ∃ m, (nextLine (p, ifl)).1 =
      { p with
        dot := 0, ly := p.nextLy, mode := m, winLine := if p.ly = 153 then 0 else p.winLine
        coinc := decide (p.nextLy = p.lyc.toNat) } := by
  have hbeq (m n : Nat) : (m == n) = decide (m = n) := rfl
  rcases nextLine_cases p ifl hly with ⟨h, e⟩ | ⟨h, e⟩ | ⟨h, e⟩ | ⟨h, h', e⟩ <;>
    rw [e, compareLy_fst, hbeq]
  · exact ⟨.vblank, by rw [Ppu.nextLy_of_lt (by omega), if_neg (by omega), h]⟩
  · exact ⟨.oamScan, by rw [Ppu.nextLy_last h, if_pos h]⟩
  · exact ⟨.oamScan, by rw [Ppu.nextLy_of_lt (by omega), if_neg (by omega)]⟩
  · exact ⟨p.mode, by rw [Ppu.nextLy_of_lt h', if_neg (by omega)]⟩

/-- The coincidence flag and the length of mode 3 after a cycle (`60_exceptions.md` R1601, R1605). -/
theorem Video.tick_coinc_mode3Len (v : Video) {p : Ppu} (ifl : BitVec 5) (h : p.Scheduled) (hon : p.on = true) :
    (v.tick (p, ifl)).1.coinc = (if p.dot = 455 then decide (p.nextLy = p.lyc.toNat) else p.coinc) ∧
      (v.tick (p, ifl)).1.mode3Len = if p.ly < 144 ∧ p.dot = 79 then v.mode3Length p else p.mode3Len := by
  have hlen := h.mode3Len_range
  rcases v.tick_cases p ifl h hon with ⟨h1, h2, e⟩ | ⟨h1, h2, -, e⟩ | ⟨h1, e⟩ | ⟨h1, h2, e⟩ <;> rw [e]
  · rw [if_neg (by omega), if_pos ⟨h1, h2⟩]
    exact ⟨rfl, rfl⟩
  · rw [if_neg (by omega), if_neg (by omega)]
    exact ⟨rfl, rfl⟩
  · obtain ⟨m, hline⟩ := nextLine_fst (p := { p with dot := 456 }) ifl (h.ly_le hon)
    rw [if_pos h1, if_neg (by omega), hline]
    exact ⟨rfl, rfl⟩
  · rw [if_neg (by omega), if_neg fun hb => (h2 hb.1).1 hb.2]
    exact ⟨rfl, rfl⟩

/-- Only the cycle that enters mode 0 draws, and only the start of a frame changes the window's line counter otherwise
(`60_exceptions.md` R1620, R1624). -/
theorem Video.tick_undrawn (v : Video) {p : Ppu} (ifl : BitVec 5) (h : p.Scheduled) (hon : p.on = true)
    (hno : ¬(p.ly < 144 ∧ p.dot + 1 = 80 + p.mode3Len)) :
    (v.tick (p, ifl)).1.fb = p.fb ∧
      (v.tick (p, ifl)).1.winLine = if p.dot = 455 ∧ p.ly = 153 then 0 else p.winLine := by
  rcases v.tick_cases p ifl h hon with ⟨h1, h2, e⟩ | ⟨h1, h2, -, e⟩ | ⟨h1, e⟩ | ⟨h1, h2, e⟩
  · rw [e, if_neg (by omega)]
    exact ⟨rfl, rfl⟩
  · exact absurd ⟨h1, h2⟩ hno
  · obtain ⟨m, hline⟩ := nextLine_fst (p := { p with dot := 456 }) ifl (h.ly_le hon)
    simp only [e, hline, h1, true_and]
  · rw [e, if_neg (by omega)]
    exact ⟨rfl, rfl⟩

/-- One cycle of the machine's picture unit is a tick. -/
theorem State.ppuAdvance_one {s : State} (hon : s.ppu.on = true) :
    s.ppuAdvance 1 = { s with ppu := (s.video.tick (s.ppu, s.ifl)).1, ifl := (s.video.tick (s.ppu, s.ifl)).2 } := by
  rw [State.ppuAdvance, Video.run, if_pos hon]
  rfl

/-- The cycle's requests, bit by bit: V-blank in bit 0, STAT in bit 1. -/
theorem Video.tick_ifl_getLsbD (v : Video) {p : Ppu} (ifl : BitVec 5) (h : p.Scheduled) (hon : p.on = true) (k : Nat) :
    (v.tick (p, ifl)).2.getLsbD k =
      (ifl.getLsbD k || decide ((p.dot = 455 ∧ p.ly = 143) ∧ k = 0) ||
        (((p.toHblank && p.selHblank) || (decide (p.dot = 455) && p.lineStat)) && decide (k = 1))) := by
  rw [v.tick_ifl ifl h hon, statRequest_getLsbD]
  by_cases hv : p.dot = 455 ∧ p.ly = 143
  · simp only [eq_true hv, if_true, requestBit_getLsbD ifl (show 0 < 5 by decide), true_and]
  · simp only [eq_false hv, if_false, false_and, decide_false, Bool.or_false]

/-- The conditions under which a cycle requests the STAT interrupt, one by one. -/
theorem Ppu.stat_iff (p : Ppu) :
    ((p.toHblank && p.selHblank) || (decide (p.dot = 455) && p.lineStat)) = true ↔
      (((p.ly < 144 ∧ p.dot + 1 = 80 + p.mode3Len) ∧ p.statSel.getLsbD 0 = true) ∨
        (p.dot = 455 ∧ p.ly = 143 ∧ p.statSel.getLsbD 1 = true) ∨
        (p.dot = 455 ∧ p.nextLy < 144 ∧ p.statSel.getLsbD 2 = true) ∨
        (p.dot = 455 ∧ p.nextLy = p.lyc.toNat ∧ p.statSel.getLsbD 3 = true)) := by
  simp only [Ppu.toHblank, Ppu.lineStat, Ppu.selHblank, Ppu.selVblank, Ppu.selOam, Ppu.selLyc, Bool.or_eq_true,
    Bool.and_eq_true, decide_eq_true_eq, beq_iff_eq, and_or_left, or_assoc]

/-- Settles O42: the requests are read off IF bit by bit, the flag and the length of mode 3 off the unit. -/
theorem ppuRequests : Obligations.PpuRequests := by
  intro s h hon p t wrap ly' toHblank
  have ht : t = _ := State.ppuAdvance_one hon
  obtain ⟨hcoinc, hlen⟩ := s.video.tick_coinc_mode3Len s.ifl h hon
  have hifl (k : Nat) : t.ifl.getLsbD k = _ :=
    (congrArg (fun u => State.ifl u |>.getLsbD k) ht).trans (s.video.tick_ifl_getLsbD s.ifl h hon k)
  have hppu : t.ppu = _ := congrArg State.ppu ht
  refine ⟨?_, ?_, fun k hk => ?_, hppu ▸ hcoinc, (congrArg Ppu.mode3Len hppu).trans hlen⟩
  · rw [hifl]
    simp [wrap, p]
  · rw [hifl, Bool.eq_iff_iff, Bool.or_eq_true, Bool.and_eq_true, Ppu.stat_iff]
    simp only [one_ne_zero, and_false, decide_false, Bool.or_false, and_true, Bool.or_eq_true, decide_eq_true_eq]
    rfl
  · rw [hifl, decide_eq_false (by omega), decide_eq_false (show ¬k = 1 by omega), Bool.and_false, Bool.or_false,
      Bool.or_false]

/-! ### The row drawn -/

/-- A line of the framebuffer after another one is drawn. -/
theorem Video.renderLine_getD_ne (v : Video) (p : Ppu) {y z : Nat} (h : z ≠ y) :
    (v.renderLine p y).fb.getD z [] = p.fb.getD z [] := by
  show (p.fb.set y _).getD z [] = _
  rw [List.getD_eq_getElem?_getD, List.getElem?_set_ne (Ne.symm h), ← List.getD_eq_getElem?_getD]

/-- A line of the framebuffer after it is drawn: its pixels. -/
theorem Video.renderLine_getD (v : Video) (p : Ppu) {x y : Nat} (hx : x < 160) (hy : y < p.fb.length) :
    ((v.renderLine p y).fb.getD y []).getD x 0 = v.pixel p (v.lineSprites p y) x y := by
  show ((p.fb.set y ((List.range 160).map fun x => v.pixel p (v.lineSprites p y) x y)).getD y []).getD x 0 = _
  rw [List.getD_eq_getElem?_getD (l := p.fb.set y _), List.getElem?_set_self hy, Option.getD_some,
    List.getD_eq_getElem?_getD, List.getElem?_map, List.getElem?_range hx]
  rfl

/-- Whether the window is shown on a line (`60_exceptions.md` R1623, R1630). -/
theorem Video.windowShown_iff (v : Video) (p : Ppu) (y : Nat) : v.windowShown p y = true ↔
    p.lcdc.getLsbD 5 = true ∧ p.wy.toNat ≤ y ∧ p.wx.toNat ≤ 166 ∧ (v.cgb = true ∨ p.lcdc.getLsbD 0 = true) := by
  simp only [Video.windowShown, Bool.and_eq_true, Bool.or_eq_true, decide_eq_true_eq, and_assoc]

/-- The window's line counter after a row (`60_exceptions.md` R1624). -/
theorem Video.renderLine_winLine (v : Video) (p : Ppu) (y : Nat) :
    (v.renderLine p y).winLine = if v.windowShown p y then (p.winLine + 1) % 144 else p.winLine := rfl

/-- Settles O44: the cycle that enters mode 0 renders its line, and every other cycle leaves the framebuffer. -/
theorem rowDrawnAtModeZero : Obligations.RowDrawnAtModeZero := by
  intro s h hon p t toHblank shown
  have hppu : t.ppu = _ := congrArg State.ppu (State.ppuAdvance_one hon)
  refine ⟨fun hh => ?_, fun hno => ?_⟩
  · obtain ⟨hlo, hhi⟩ : 172 ≤ p.mode3Len ∧ p.mode3Len ≤ 289 := h.mode3Len_range
    obtain ⟨hly, hdot⟩ := hh
    rw [hppu, s.video.tick_hblank s.ifl hly (by omega) (by omega) hdot]
    refine ⟨fun y hy => s.video.renderLine_getD_ne _ hy, fun hf x hx => ?_, ?_⟩
    · exact s.video.renderLine_getD _ hx (by rw [hf.1]; exact hly)
    · have hshown : s.video.windowShown p p.ly = true ↔ shown := s.video.windowShown_iff p p.ly
      simp only [← hshown]
      exact s.video.renderLine_winLine _ _
  · rw [hppu]
    exact s.video.tick_undrawn s.ifl h hon hno

end Sys2Proof.Machine
end

section
/-! PROOFS. A DMG background or window pixel (`60_exceptions.md` R1621-R1625, R1630). In DMG mode no attribute byte is
read, so a pixel is the tile its map names, unflipped, in bank 0. -/

namespace Sys2Proof.Machine

variable {v : Video} {p : Ppu}

/-- A pixel of the plane a tile map shows, in DMG mode (`60_exceptions.md` R1621, R1622). -/
theorem Video.mapPixel_dmg (h : v.cgb = false) (lcdc : Byte) (map px py : Nat) :
    let n := v.vramByte (map + 32 * (py / 8) + px / 8)
    let tile := if lcdc.getLsbD 4 then 16 * n.toNat else if n.toNat < 128 then 0x1000 + 16 * n.toNat else 16 * n.toNat
    (v.mapPixel lcdc map px py).index.toNat = tileIndex v tile (py % 8) (px % 8) := by
  intro n tile
  have hpixel : v.mapPixel lcdc map px py =
      { index := v.tileColor 0 (bgTileOffset lcdc n) (py % 8) (px % 8), attr := 0 } := by
    simp only [Video.mapPixel, h, Bool.false_eq_true, if_false]
    rfl
  rw [hpixel, Video.tileColor_toNat, bgTileOffset_eq, Nat.zero_mul, Nat.zero_add]

/-- Whether the window supplies the pixel at (x, y), in DMG mode with the background on (`60_exceptions.md` R1623,
R1630). -/
theorem Video.windowShown_dmg (hbg : p.lcdc.getLsbD 0 = true) (x y : Nat) :
    (v.windowShown p y && decide (p.wx.toNat ≤ x + 7)) = true ↔
      p.lcdc.getLsbD 5 = true ∧ p.wy.toNat ≤ y ∧ p.wx.toNat ≤ 166 ∧ p.wx.toNat ≤ x + 7 := by
  rw [Bool.and_eq_true, Video.windowShown_iff]
  simp only [hbg, or_true, and_true, decide_eq_true_eq, and_assoc]

/-- The window's map and its own line, or the background's and the scrolled position (`60_exceptions.md` R1622, R1623). -/
theorem Video.bgPixel_dmg (hbg : p.lcdc.getLsbD 0 = true) (x y : Nat) :
    let window := p.lcdc.getLsbD 5 = true ∧ p.wy.toNat ≤ y ∧ p.wx.toNat ≤ 166 ∧ p.wx.toNat ≤ x + 7
    v.bgPixel p x y =
      v.mapPixel p.lcdc (if p.lcdc.getLsbD (if window then 6 else 3) then 0x1C00 else 0x1800)
        (if window then x + 7 - p.wx.toNat else (p.scx.toNat + x) % 256)
        (if window then p.winLine else (p.scy.toNat + y) % 256) := by
  intro window
  have hshown : _ ↔ window := Video.windowShown_dmg (v := v) hbg x y
  rw [Video.bgPixel, if_neg (by simp [hbg])]
  by_cases hw : window
  · simp only [if_pos hw, if_pos (hshown.2 hw)]
    rfl
  · simp only [if_neg hw, if_neg (mt hshown.1 hw)]
    rfl

/-- With sprites off a pixel shows the background or window (`60_exceptions.md` R1626). -/
theorem Video.pixel_spritesOff (h : p.lcdc.getLsbD 1 = false) (x y : Nat) :
    v.pixel p (v.lineSprites p y) x y = v.bgColor p (v.bgPixel p x y) := by
  have hnone : v.lineSprites p y = [] := by rw [Video.lineSprites, if_neg (Bool.eq_false_iff.1 h)]
  rw [hnone, Video.pixel, Video.winner_none (by simp)]

/-- Settles O45: the pixel is the background's color of one map pixel. -/
theorem dmgBackgroundWindowPixel : Obligations.DmgBackgroundWindowPixel := by
  intro v p x y hdmg hsprites window px py map n tile index
  rw [Video.pixel_spritesOff hsprites, Video.bgColor, if_neg (by simp [hdmg])]
  refine ⟨fun hbg => ?_, fun hbg => if_neg (Bool.eq_false_iff.1 hbg)⟩
  have hindex : (v.bgPixel p x y).index.toNat = index := by
    rw [Video.bgPixel_dmg hbg]
    exact Video.mapPixel_dmg hdmg p.lcdc map px py
  rw [if_pos hbg, shadeOf_toNat, hindex]

end Sys2Proof.Machine
end

section
/-! PROOFS. The start states and what `load` takes and makes (`10_state.md` R280, R290, `20_memory.md` R400-R404,
`70_reset_and_hazards.md` R1800). The header's type byte is a row of the table, its size bytes are in the lists of sizes. -/

namespace Sys2Proof.Machine

/-! ### The header -/

/-- The type of a row of the table (`20_memory.md` R400). -/
theorem cartType_of_row : ∀ row ∈ typeTable, cartType row.1 = some ⟨row.2.1, row.2.2.1, row.2.2.2⟩ := by
  intro row hrow
  fin_cases hrow <;> rfl

/-- A type is one of a row of the table. -/
theorem row_of_cartType : ∀ t : Byte, (cartType t).isSome = true → ∃ row ∈ typeTable, row.1 = t := by
  decide

/-- A legal size byte of the ROM (`20_memory.md` R401). -/
theorem declaredRomSize_isSome (n : Byte) : (declaredRomSize n).isSome = true ↔ n.toNat ≤ 8 := by
  unfold declaredRomSize
  split <;> simp_all

/-- The RAM size of a legal size byte (`20_memory.md` R402). -/
theorem declaredRamSize_of_le (n : Byte) (h : n.toNat ≤ 5) :
    declaredRamSize n = some ([0, 0x800, 0x2000, 0x8000, 0x20000, 0x10000].getD n.toNat 0) := by
  unfold declaredRamSize
  interval_cases n.toNat <;> rfl

theorem le_of_declaredRamSize (n : Byte) (h : (declaredRamSize n).isSome = true) : n.toNat ≤ 5 := by
  unfold declaredRamSize at h
  split at h
  case h_7 => cases h
  all_goals omega

/-- The size of a row's RAM: MBC2's cells, the declared size, or none (`20_memory.md` R402). -/
theorem ramSize_of_row (declared : Nat) : ∀ row ∈ typeTable, ramSize ⟨row.2.1, row.2.2.1, row.2.2.2⟩ declared =
    if row.1 = 0x05 ∨ row.1 = 0x06 then 512 else if row.2.2.1 then declared else 0 := by
  intro row hrow
  fin_cases hrow <;> rfl

/-- The RAM at load: of a save the first bytes, with a battery (`20_memory.md` R404; log 23). -/
theorem initialRam_eq (t : CartType) (size : Nat) (save : Option (List Byte)) :
    initialRam t size save = Memory.ofBytes 0 ((if t.battery then save.getD [] else []).take size) := by
  obtain ⟨ctrl, hasRam, battery⟩ := t
  cases battery <;> cases save <;> simp [initialRam, Memory.ofBytes]

/-! ### The load -/

/-- The parameters of a load (`60_exceptions.md` R1780). -/
def LoadArgs.params (x : LoadArgs) : Params :=
  { hw := x.hw, cgbMode := decide (x.hw = .cgb), gapRead := x.gapRead, videoLock := x.videoLock, mode3 := x.mode3
    bootRom := x.bootRom }

/-- The size of the RAM of a cartridge of a row's type (`20_memory.md` R402). -/
def LoadArgs.ramLen (x : LoadArgs) (row : Byte × Controller × Bool × Bool) : Nat :=
  if row.1 = 0x05 ∨ row.1 = 0x06 then 512
  else if row.2.2.1 then [0, 0x800, 0x2000, 0x8000, 0x20000, 0x10000].getD (x.rom.byte 0x149).toNat 0
  else 0

/-- The cartridge of a load, of a row's type (`20_memory.md` R400-R404). -/
def LoadArgs.cartOf (x : LoadArgs) (row : Byte × Controller × Bool × Bool) : Cart :=
  { ctrl := row.2.1, battery := row.2.2.2, rom := x.rom.bytes, romLen := x.rom.len
    ram := Memory.ofBytes 0 ((if row.2.2.2 then x.saveRam.getD [] else []).take (x.ramLen row)), ramLen := x.ramLen row }

/-- A load whose checks hold, but for that of compatibility mode, which is the last (`20_memory.md` R403). -/
theorem load_checked {x : LoadArgs} (h : x.Checked) {row : Byte × Controller × Bool × Bool} (hrow : row ∈ typeTable)
    (htype : row.1 = x.rom.byte 0x147) :
    load x = if x.hw == .cgb && !(x.rom.byte 0x143).getLsbD 7 then .error .cgbCompatibility
      else .ok (x.start x.params (x.cartOf row)) := by
  obtain ⟨hlen, -, hsupported, hromSize, hramSize⟩ := h
  obtain ⟨size, hsize⟩ := Option.isSome_iff_exists.1 ((declaredRomSize_isSome _).2 hromSize)
  have hcontains : x.supported.contains (x.rom.byte 0x147) = true := List.contains_iff_mem.2 hsupported
  have hmode (h : ¬(x.hw == .cgb && !(x.rom.byte 0x143).getLsbD 7) = true) :
      (x.hw == .cgb && (x.rom.byte 0x143).getLsbD 7) = decide (x.hw = .cgb) := by
    cases hflag : (x.rom.byte 0x143).getLsbD 7 <;> cases hhw : x.hw <;> simp_all
  unfold load
  simp only [if_neg (Nat.not_lt.2 hlen), ← htype, cartType_of_row row hrow, hsize, declaredRamSize_of_le _ hramSize]
  rw [htype, hcontains, if_neg (by decide)]
  by_cases hcgb : (x.hw == .cgb && !(x.rom.byte 0x143).getLsbD 7) = true
  · rw [if_pos hcgb, if_pos hcgb]
  · rw [if_neg hcgb, if_neg hcgb, hmode hcgb, ramSize_of_row _ row hrow, initialRam_eq]
    rfl

/-- A load that does not fail passes the checks (`20_memory.md` R403). -/
theorem checked_of_load {x : LoadArgs} {s : State} (h : load x = .ok s) : x.Checked := by
  unfold load at h
  by_cases hlen : x.rom.len < 0x150
  · rw [if_pos hlen] at h
    cases h
  rw [if_neg hlen] at h
  split at h
  case h_4 t size declared htype hrom hram =>
    by_cases hsupported : (!x.supported.contains (x.rom.byte 0x147)) = true
    · rw [if_pos hsupported] at h
      cases h
    refine ⟨by omega, row_of_cartType _ (by rw [htype]; rfl), ?_, ?_, ?_⟩
    · simpa using hsupported
    · exact (declaredRomSize_isSome _).1 (by rw [hrom]; rfl)
    · exact le_of_declaredRamSize _ (by rw [hram]; rfl)
  all_goals cases h

/-- The start state of a load (`70_reset_and_hazards.md` R1800). -/
theorem LoadArgs.start_eq (x : LoadArgs) (cfg : Params) (cart : Cart) :
    (x.bootRom ≠ none → x.start cfg cart = powerOn cfg cart) ∧
      (x.bootRom = none → x.postBoot = none → x.start cfg cart = Machine.postBoot cfg cart) ∧
      ∀ r, x.bootRom = none → x.postBoot = some r →
        x.start cfg cart = { r with cfg := cfg, cart := cart, bootMapped := false } := by
  unfold LoadArgs.start
  refine ⟨fun hboot => if_pos (Option.isSome_iff_ne_none.2 hboot), fun hboot hpost => ?_, fun r hboot hpost => ?_⟩
  · simp only [hboot, hpost, Option.isSome_none, Bool.false_eq_true, if_false]
  · simp only [hboot, hpost, Option.isSome_none, Bool.false_eq_true, if_false]
    rfl

/-! ### The start states -/

/-- The registers of the post-boot state as pairs (`10_state.md` R290). -/
theorem postBoot_pairs (cfg : Params) (cart : Cart) :
    (cfg.cgbMode = false → (postBoot cfg cart).regs.af = 0x01B0 ∧ (postBoot cfg cart).regs.bc = 0x0013 ∧
      (postBoot cfg cart).regs.de = 0x00D8 ∧ (postBoot cfg cart).regs.hl = 0x014D) ∧
    (cfg.cgbMode = true → (postBoot cfg cart).regs.af = 0x1180 ∧ (postBoot cfg cart).regs.bc = 0x0000 ∧
      (postBoot cfg cart).regs.de = 0xFF56 ∧ (postBoot cfg cart).regs.hl = 0x000D) := by
  refine ⟨fun h => ?_, fun h => ?_⟩
  · simp only [postBoot, h, Bool.false_eq_true, if_false]
    exact ⟨rfl, rfl, rfl, rfl⟩
  · simp only [postBoot, h, if_true]
    exact ⟨rfl, rfl, rfl, rfl⟩

/-- Settles O60: the start states are given by their definitions, the load's checks pass for a row of the table or not at
all, and what the registers read after reset is computed. -/
theorem resetValues : Obligations.ResetValues := by
  refine ⟨fun cfg cart => ?_, fun cfg cart => ?_, fun x => ⟨fun hno => ?_, ?_, ?_⟩, ?_⟩
  · obtain ⟨hdmg, hcgb⟩ := postBoot_pairs cfg cart
    refine ⟨hdmg, hcgb, ?_⟩
    repeat' apply And.intro
    all_goals rfl
  · repeat' apply And.intro
    all_goals rfl
  · cases hload : load x with
    | error e => exact ⟨e, rfl⟩
    | ok s => exact absurd (checked_of_load hload) hno
  · intro hchecked hhw hflag
    obtain ⟨row, hrow, htype⟩ := hchecked.2.1
    rw [load_checked hchecked hrow htype, hhw]
    exact if_pos (by rw [hflag]; rfl)
  · intro row hrow htype hchecked hcgb size cfg saved cart
    have hpass : ¬(x.hw == .cgb && !(x.rom.byte 0x143).getLsbD 7) = true := by simpa using hcgb
    rw [load_checked hchecked hrow htype, if_neg hpass]
    obtain ⟨hboot, hpost, hgiven⟩ := x.start_eq cfg cart
    exact ⟨fun h => congrArg _ (hboot h), fun h h' => congrArg _ (hpost h h'), fun r h h' => congrArg _ (hgiven r h h')⟩
  · exact ⟨rfl, rfl, rfl, rfl, rfl, rfl, rfl, rfl, rfl, rfl, rfl, rfl⟩

end Sys2Proof.Machine
end

section
/-! PROOFS. What an instruction leaves as it was: its register frame, its cycles, its marks, and of the bus all but what
it stores (`10_state.md` sections 1-3, `30_encoding.md` R531, R532). Reads and writes do not touch the CPU's own part,
so each shape of an instruction is followed to the state it ends in, once for all these claims. -/

namespace Sys2Proof.Machine

/-! ### Registers and flags -/

/-- The registers `y` are `x` but for the registers `ds` and the flags true in `fs`. -/
structure RegsFrame (ds : List Reg8) (fs : Flags) (x y : Regs) : Prop where
  reg : ∀ r, r ∉ ds → y.get r = x.get r
  z : fs.z = false → y.f.z = x.f.z
  n : fs.n = false → y.f.n = x.f.n
  h : fs.h = false → y.f.h = x.f.h
  c : fs.c = false → y.f.c = x.f.c

section Registers
variable {ds : List Reg8} {fs : Flags} {x y : Regs}

theorem RegsFrame.refl : RegsFrame ds fs x x :=
  ⟨fun _ _ => rfl, fun _ => rfl, fun _ => rfl, fun _ => rfl, fun _ => rfl⟩

theorem Regs.get_set_ne (x : Regs) {r q : Reg8} (v : Byte) (h : q ≠ r) : (x.set r v).get q = x.get q := by
  cases r <;> cases q <;> simp_all [Regs.set, Regs.get]

theorem Regs.set_f (x : Regs) (r : Reg8) (v : Byte) : (x.set r v).f = x.f := by
  cases r <;> rfl

/-- A write of a destination register. -/
theorem RegsFrame.set (hy : RegsFrame ds fs x y) {r : Reg8} (hr : r ∈ ds) (v : Byte) :
    RegsFrame ds fs x (y.set r v) where
  reg q hq := (y.get_set_ne v (ne_of_mem_of_not_mem hr hq).symm).trans (hy.reg q hq)
  z hz := (congrArg Flags.z (y.set_f r v)).trans (hy.z hz)
  n hn := (congrArg Flags.n (y.set_f r v)).trans (hy.n hn)
  h hh := (congrArg Flags.h (y.set_f r v)).trans (hy.h hh)
  c hc := (congrArg Flags.c (y.set_f r v)).trans (hy.c hc)

/-- A write of F that keeps the flags the instruction does not write. -/
theorem RegsFrame.flags (hy : RegsFrame ds fs x y) (f : Flags) (hz : fs.z = false → f.z = x.f.z := by exact nofun)
    (hn : fs.n = false → f.n = x.f.n := by exact nofun) (hh : fs.h = false → f.h = x.f.h := by exact nofun)
    (hc : fs.c = false → f.c = x.f.c := by exact nofun) : RegsFrame ds fs x { y with f := f } where
  reg q hq := Eq.trans (by cases q <;> rfl) (hy.reg q hq)
  z := hz
  n := hn
  h := hh
  c := hc

/-- A write of HL by an instruction whose destinations are H and L, and perhaps A. -/
theorem RegsFrame.setHl (hy : RegsFrame ds fs x y) (hh : .h ∈ ds) (hl : .l ∈ ds) (v : Word) :
    RegsFrame ds fs x { y with h := hi8 v, l := lo8 v } :=
  (hy.set hh (hi8 v)).set hl (lo8 v)

end Registers

/-! ### What was stored -/

/-- The states an instruction can leave that stores a byte to each of the addresses, in order, and does nothing else to
the bus. -/
def State.Stored : List Word → State → State → Prop
  | [], s, t => s.SameBus t
  | a :: as, s, t => ∃ u v w, s.SameBus u ∧ u.write a v = .ok w ∧ State.Stored as w t

/-- The CPU's own part is not of the bus. -/
theorem State.Stored.withCpu {as : List Word} {s t : State} (h : State.Stored as s t) (c : State) :
    State.Stored as s (t.withCpu c) := by
  induction as generalizing s with
  | nil =>
    show s.SameBus (t.withCpu c)
    have ht : t = _ := h
    rw [ht]
    rfl
  | cons a as ih =>
    obtain ⟨u, v, w, hu, hw, ht⟩ := h
    exact ⟨u, v, w, hu, hw, ih ht⟩

theorem State.stored_one {s u w t : State} {a : Word} {v : Byte} (hw : u.write a v = .ok w)
    (hs : s.SameBus u := by rfl) (ht : w.SameBus t := by rfl) : State.Stored [a] s t :=
  ⟨u, v, w, hs, hw, ht⟩

theorem State.stored_two {s u w x t : State} {a b : Word} {v y : Byte} (hw : u.write a v = .ok w)
    (hx : w.write b y = .ok x) (hs : s.SameBus u := by rfl) (ht : x.SameBus t := by rfl) :
    State.Stored [a, b] s t :=
  ⟨u, v, w, hs, hw, State.stored_one hx rfl ht⟩

/-! ### Where an effect leads

Reads and writes leave the CPU's own part, so what follows one starts from a state that is known but for the bus. -/

section Effects
variable {Q : State → Prop} {s : State} {a : Word} {v : Byte}

theorem holds_read {f : Byte × State → Eff State} (hf : ∀ (b : Byte) (n : Nat), Holds Q (f (b, { s with draws := n }))) :
    Holds Q (s.read a >>= f) := by
  intro t h
  cases hr : s.read a with
  | error e => rw [hr] at h; cases h
  | ok x =>
    obtain ⟨b, u⟩ := x
    rw [hr, State.read_ok hr] at h
    exact hf b u.draws t h

theorem holds_write {f : State → Eff State} 
    (hf : ∀ w : State, s.write a v = .ok (w.withCpu s) → Holds Q (f (w.withCpu s))) : Holds Q (s.write a v >>= f) := by
  intro t h
  cases hw : s.write a v with
  | error e => rw [hw] at h; cases h
  | ok w =>
    have hcpu := State.write_cpu hw
    rw [hw] at h
    rw [hcpu] at h hw
    exact hf w hw t h

theorem holds_push {w : Word} {f : State → Eff State}
    (hf : ∀ u x : State, s.write (s.sp - 1) (hi8 w) = .ok u → u.write (s.sp - 2) (lo8 w) = .ok (x.withCpu s) →
      Holds Q (f { x.withCpu s with sp := s.sp - 2 })) : Holds Q (s.push16 w >>= f) := by
  intro t h
  rw [State.push16_eq] at h
  cases h1 : s.write (s.sp - 1) (hi8 w) with
  | error e => rw [h1] at h; cases h
  | ok u =>
    simp only [h1] at h
    cases h2 : u.write (s.sp - 2) (lo8 w) with
    | error e => rw [h2] at h; cases h
    | ok x =>
      have hcpu : x = x.withCpu s := by rw [State.write_cpu h2, State.write_cpu h1]; rfl
      rw [h2] at h
      rw [hcpu] at h h2
      exact hf u x h1 h2 t h

theorem holds_pop {f : Word × State → Eff State}
    (hf : ∀ (w : Word) (n : Nat), Holds Q (f (w, { s with draws := n, sp := s.sp + 2 }))) : Holds Q (s.pop16 >>= f) := by
  intro t h
  rw [State.pop16_eq] at h
  cases h1 : s.read s.sp with
  | error e => rw [h1] at h; cases h
  | ok x =>
    obtain ⟨lo, u⟩ := x
    simp only [h1] at h
    cases h2 : u.read (s.sp + 1) with
    | error e => rw [h2] at h; cases h
    | ok y =>
      obtain ⟨hi, w⟩ := y
      have hw : w = { s with draws := w.draws } := by rw [State.read_ok h2, State.read_ok h1]
      rw [h2] at h
      rw [hw] at h
      exact hf _ w.draws t h

end Effects

/-! ### An instruction's frame -/

/-- What the instruction leaves as it was, what it stores, and the cycles it takes. The fields with a default are those
most instructions leave alone. -/
structure Ran (i : Instr) (s t : State) : Prop where
  regs : RegsFrame (regDests i) (flagDests i) s.regs t.regs
  bus : (∀ x, i ≠ .stop x) → State.Stored (s.stores i) s t
  cycles : t.cycles = instrCycles s.regs.f i
  sp : writesSp i = false → t.sp = s.sp := by exact fun _ => rfl
  ime : i ≠ .di → i ≠ .reti → t.ime = s.ime := by exact fun _ _ => rfl
  delay : i ≠ .di → i ≠ .ei → t.eiDelay = s.eiDelay := by exact fun _ _ => rfl
  halt : i ≠ .halt → t.halted = s.halted ∧ (t.haltBug = true → s.haltBug = true) := by exact fun _ => ⟨rfl, nofun⟩
  stopped : (∀ x, i ≠ .stop x) → t.stopped = s.stopped := by exact fun _ => rfl
  fatal : t.fatal = s.fatal := by rfl
  refused : t.refused = s.refused := by rfl

section Shapes
variable {i : Instr} {s t : State}

/-- An instruction that stores nothing and leaves the control state. -/
theorem Ran.of_unstored (hregs : RegsFrame (regDests i) (flagDests i) s.regs t.regs)
    (hsp : writesSp i = false → t.sp = s.sp := by exact fun _ => rfl)
    (hcpu : t = { s with
      regs := t.regs, sp := t.sp, pc := t.pc, haltBug := false, cycles := t.cycles, draws := t.draws } := by rfl)
    (hstores : s.stores i = [] := by rfl) (hcycles : instrCycles s.regs.f i = t.cycles := by rfl) :
    Holds (Ran i s) (.ok t) := by
  rw [hcpu] at hregs hsp hcycles ⊢
  exact holds_ok { regs := hregs, bus := fun _ => hstores ▸ rfl, cycles := hcycles.symm, sp := hsp }

theorem ran_modifyHl (len c : Nat) (f : Byte → Flags → Byte) {g : Byte → Flags → Flags}
    (hregs : ∀ v, RegsFrame (regDests i) (flagDests i) s.regs { s.regs with f := g v s.regs.f })
    (hstores : s.stores i = [s.regs.hl] := by rfl) (hcycles : instrCycles s.regs.f i = c := by rfl) :
    Holds (Ran i s) (s.modifyHl len c f g) := by
  refine holds_read fun b n => holds_write fun w hw => holds_ok
    { regs := hregs b, bus := fun _ => ?_, cycles := hcycles.symm }
  rw [hstores]
  exact State.stored_one hw

theorem ran_shiftHl (o : ShiftOp) (hflags : flagDests i = ⟨true, true, true, true⟩ := by rfl)
    (hstores : s.stores i = [s.regs.hl] := by rfl) (hcycles : instrCycles s.regs.f i = 16 := by rfl) :
    Holds (Ran i s) (s.shiftHl o) :=
  ran_modifyHl 2 16 _ (fun _ => by rw [hflags]; exact RegsFrame.refl.flags _) hstores hcycles

theorem ran_storeByte (len c : Nat) (a : Word) (v : Byte) (hstores : s.stores i = [a] := by rfl)
    (hcycles : instrCycles s.regs.f i = c := by rfl) : Holds (Ran i s) (s.storeByte len c a v) := by
  refine holds_write fun w hw => holds_ok { regs := RegsFrame.refl, bus := fun _ => ?_, cycles := hcycles.symm }
  rw [hstores]
  exact State.stored_one hw

theorem ran_loadA (len c : Nat) (a : Word) (ha : .a ∈ regDests i := by exact List.mem_cons_self)
    (hstores : s.stores i = [] := by rfl) (hcycles : instrCycles s.regs.f i = c := by rfl) :
    Holds (Ran i s) (s.loadA len c a) :=
  holds_read fun b _ => Ran.of_unstored (RegsFrame.refl.set ha b) (fun _ => rfl) rfl hstores hcycles

theorem ran_jumpIf (len : Nat) (taken : Bool) (a : Word) (yes no : Nat) (hstores : s.stores i = [] := by rfl)
    (hcycles : instrCycles s.regs.f i = if taken then yes else no := by rfl) :
    Holds (Ran i s) (s.jumpIf len taken a yes no) := by
  cases taken <;> exact Ran.of_unstored RegsFrame.refl (fun _ => rfl) rfl hstores hcycles

theorem ran_callIf (len : Nat) (taken : Bool) (a : Word) (yes no : Nat) (hsp : writesSp i = true := by rfl)
    (hstores : s.stores i = if taken then [s.sp - 1, s.sp - 2] else [] := by rfl)
    (hcycles : instrCycles s.regs.f i = if taken then yes else no := by rfl) :
    Holds (Ran i s) (s.callIf len taken a yes no) := by
  cases taken
  · exact Ran.of_unstored RegsFrame.refl (fun _ => rfl) rfl hstores hcycles
  · refine holds_push fun u x hu hx => holds_ok
      { regs := RegsFrame.refl, bus := fun _ => ?_, cycles := hcycles.symm, sp := hsp ▸ nofun }
    rw [hstores]
    exact State.stored_two hu hx

theorem ran_returnIf (taken : Bool) (yes no : Nat) (hsp : writesSp i = true := by rfl)
    (hstores : s.stores i = [] := by rfl) (hcycles : instrCycles s.regs.f i = if taken then yes else no := by rfl) :
    Holds (Ran i s) (s.returnIf taken yes no) := by
  cases taken
  · exact Ran.of_unstored RegsFrame.refl (fun _ => rfl) rfl hstores hcycles
  · refine holds_pop fun w n => holds_ok
      { regs := RegsFrame.refl, bus := fun _ => ?_, cycles := hcycles.symm, sp := hsp ▸ nofun }
    rw [hstores]
    rfl

/-- HL moved after the access of a load or store through it. -/
theorem Ran.moveHl (h : Ran i s t) (hh : .h ∈ regDests i) (hl : .l ∈ regDests i) (v : Word) :
    Ran i s (t.setHl v) where
  regs := h.regs.setHl hh hl v
  bus hi := (h.bus hi).withCpu (t.setHl v)
  cycles := h.cycles
  sp := h.sp
  ime := h.ime
  delay := h.delay
  halt := h.halt
  stopped := h.stopped
  fatal := h.fatal
  refused := h.refused

end Shapes

theorem ran_push (s : State) (q : Reg16Stk) :
    Holds (Ran (.push q) s) ((s.advance 1).push16 (s.stkPair q) >>= fun t => .ok (t.cost 16)) :=
  holds_push fun _ _ hu hx => holds_ok
    { regs := RegsFrame.refl, bus := fun _ => State.stored_two hu hx, cycles := rfl, sp := nofun }

theorem regsFrame_setPair (fs : Flags) (s : State) (p : Reg16) (v : Word) :
    RegsFrame (pairHalves p) fs s.regs (s.setPair p v).regs := by
  cases p
  case bc =>
    show RegsFrame [.b, .c] fs s.regs ((s.regs.set .b (hi8 v)).set .c (lo8 v))
    exact (RegsFrame.refl.set (by decide) _).set (by decide) _
  case de =>
    show RegsFrame [.d, .e] fs s.regs ((s.regs.set .d (hi8 v)).set .e (lo8 v))
    exact (RegsFrame.refl.set (by decide) _).set (by decide) _
  case hl => exact RegsFrame.refl.setHl (ds := [.h, .l]) (by decide) (by decide) v
  case sp => exact RegsFrame.refl

/-- An instruction that only moves a word to a register pair. -/
theorem ran_setPair {i : Instr} {s : State} (n c : Nat) (p : Reg16) (v : Word)
    (hregs : regDests i = pairHalves p := by rfl) (hsp : writesSp i = (p == .sp) := by rfl)
    (hstores : s.stores i = [] := by rfl) (hcycles : instrCycles s.regs.f i = c := by rfl) :
    Holds (Ran i s) (.ok (((s.advance n).setPair p v).cost c)) := by
  refine Ran.of_unstored ?_ ?_ ?_ hstores hcycles
  · rw [hregs]
    exact regsFrame_setPair _ (s.advance n) p v
  · rw [hsp]
    cases p
    case sp => exact nofun
    all_goals exact fun _ => rfl
  · cases p <;> rfl

theorem regsFrame_setStkPair (s : State) (q : Reg16Stk) (v : Word) :
    RegsFrame (stkHalves q) (flagDests (.pop q)) s.regs (s.setStkPair q v).regs := by
  cases q
  case bc => exact regsFrame_setPair _ s .bc v
  case de => exact regsFrame_setPair _ s .de v
  case hl => exact regsFrame_setPair _ s .hl v
  case af => exact (RegsFrame.refl.set (r := .a) List.mem_cons_self _).flags _

theorem ran_pop (s : State) (q : Reg16Stk) :
    Holds (Ran (.pop q) s) ((s.advance 1).pop16 >>= fun x => .ok ((x.2.setStkPair q x.1).cost 12)) :=
  holds_pop fun w n => Ran.of_unstored (regsFrame_setStkPair { s.advance 1 with draws := n, sp := s.sp + 2 } q w) nofun
    (by cases q <;> rfl)

theorem ran_storeSp (s : State) (a : Word) :
    Holds (Ran (.ldA16Sp a) s) ((s.advance 3).write a (lo8 s.sp) >>= fun t =>
      t.write (a + 1) (hi8 s.sp) >>= fun t => .ok (t.cost 20)) :=
  holds_write fun _ hw => holds_write fun _ hx => holds_ok
    { regs := RegsFrame.refl, bus := fun _ => State.stored_two hw hx, cycles := rfl }

theorem ran_reti (s : State) :
    Holds (Ran .reti s) ((s.advance 1).returnFromInterrupt >>= fun t => .ok (t.cost 16)) := by
  rw [State.returnFromInterrupt, bind_assoc]
  exact holds_pop fun w n => holds_ok
    { regs := RegsFrame.refl, bus := fun _ => rfl, cycles := rfl, sp := nofun, ime := fun _ h => absurd rfl h }

theorem ran_stop (s : State) (x : Byte) :
    Holds (Ran (.stop x) s) (.ok ({ (s.advance 2).divReset with stopped := true }.cost 4)) :=
  holds_ok
    { regs := RegsFrame.refl, bus := fun h => absurd rfl (h x), cycles := rfl, stopped := fun h => absurd rfl (h x) }

theorem ran_halt (s : State) :
    Holds (Ran .halt s) (.ok ((if !s.ime && (s.advance 1).pending != 0 then { s.advance 1 with haltBug := true }
      else { s.advance 1 with halted := true }).cost 4)) := by
  split <;> exact holds_ok
    { regs := RegsFrame.refl, bus := fun _ => rfl, cycles := rfl, halt := fun h => absurd rfl h }

theorem ran_di (s : State) : Holds (Ran .di s) (.ok ({ s.advance 1 with ime := false, eiDelay := 0 }.cost 4)) :=
  holds_ok
    { regs := RegsFrame.refl, bus := fun _ => rfl, cycles := rfl, ime := fun h => absurd rfl h
      delay := fun h => absurd rfl h }

theorem ran_ei (s : State) :
    Holds (Ran .ei s) (.ok ({ s.advance 1 with eiDelay := if s.eiDelay = 0 then 2 else s.eiDelay }.cost 4)) :=
  holds_ok { regs := RegsFrame.refl, bus := fun _ => rfl, cycles := rfl, delay := fun _ h => absurd rfl h }

/-- An instruction is refused, is an illegal opcode, or runs within its frame. -/
theorem exec_ran {i : Instr} {s t : State} (h : exec i s = .next t) (hi : i ≠ .prefixCb) :
    (∃ e, t = { s with refused := some e }) ∨ (∃ op, t = s.raiseIllegal op) ∨ Ran i s t := by
  have hran {e : Eff State} (h : s.conclude e = .next t) (he : Holds (Ran i s) e) :
      (∃ e, t = { s with refused := some e }) ∨ (∃ op, t = s.raiseIllegal op) ∨ Ran i s t := by
    cases e with
    | ok u => cases h; exact .inr (.inr (he _ rfl))
    | error e => cases h; exact .inl ⟨e, rfl⟩
  cases i
  all_goals unfold exec at h
  case addAR | adcAR | subR | sbcAR | andR | xorR | orR | addAN | adcAN | subN | sbcAN | andN | xorN | orN | rlca | rrca
      | rla | rra | rlcR | rrcR | rlR | rrR | slaR | sraR | swapR | srlR =>
    exact hran h (Ran.of_unstored ((RegsFrame.refl.set List.mem_cons_self _).flags _))
  case addAHl | adcAHl | subHl | sbcAHl | andHl | xorHl | orHl =>
    exact hran h (holds_read fun _ _ => Ran.of_unstored ((RegsFrame.refl.set List.mem_cons_self _).flags _))
  case cpR | cpN => exact hran h (Ran.of_unstored (RegsFrame.refl.flags _))
  case cpHl => exact hran h (holds_read fun _ _ => Ran.of_unstored (RegsFrame.refl.flags _))
  case incR | decR =>
    exact hran h (Ran.of_unstored ((RegsFrame.refl.set List.mem_cons_self _).flags _ (hc := fun _ => rfl)))
  case daa =>
    exact hran h (Ran.of_unstored ((RegsFrame.refl.set List.mem_cons_self _).flags _
      (hn := fun _ => congrArg (·.2.n) (daaResult_eq _ _))))
  case cpl =>
    exact hran h (Ran.of_unstored ((RegsFrame.refl.set List.mem_cons_self _).flags _
      (hz := fun _ => rfl) (hc := fun _ => rfl)))
  case scf | ccf => exact hran h (Ran.of_unstored (RegsFrame.refl.flags _ (hz := fun _ => rfl)))
  case bitR => exact hran h (Ran.of_unstored (RegsFrame.refl.flags _ (hc := fun _ => rfl)))
  case bitHl => exact hran h (holds_read fun _ _ => Ran.of_unstored (RegsFrame.refl.flags _ (hc := fun _ => rfl)))
  case incHl | decHl => exact hran h (ran_modifyHl _ _ _ fun _ => RegsFrame.refl.flags _ (hc := fun _ => rfl))
  case resHl | setHl => exact hran h (ran_modifyHl _ _ _ fun _ => RegsFrame.refl)
  case rlcHl | rrcHl | rlHl | rrHl | slaHl | sraHl | swapHl | srlHl => exact hran h (ran_shiftHl _)
  case resR | setR | ldRR | ldRN => exact hran h (Ran.of_unstored (RegsFrame.refl.set List.mem_cons_self _))
  case ldRHl => exact hran h (holds_read fun _ _ => Ran.of_unstored (RegsFrame.refl.set List.mem_cons_self _))
  case ldABc | ldADe | ldAA16 | ldhAA8 | ldhAC => exact hran h (ran_loadA _ _ _)
  case ldHlR | ldHlN | ldBcA | ldDeA | ldA16A | ldhA8A | ldhCA => exact hran h (ran_storeByte _ _ _ _)
  case ldAHli | ldAHld =>
    exact hran h (holds_bind (ran_loadA _ _ _) fun _ hu => holds_ok (hu.moveHl (by decide) (by decide) _))
  case ldHliA | ldHldA =>
    exact hran h (holds_bind (ran_storeByte _ _ _ _) fun _ hu => holds_ok (hu.moveHl (by decide) (by decide) _))
  case jp | jpCc | jpHl | jr | jrCc => exact hran h (ran_jumpIf _ _ _ _ _)
  case call | callCc | rst => exact hran h (ran_callIf _ _ _ _ _)
  case ret | retCc => exact hran h (ran_returnIf _ _ _)
  case push q => exact hran h (ran_push s q)
  case pop q => exact hran h (ran_pop s q)
  case nop => exact hran h (Ran.of_unstored RegsFrame.refl)
  case ldHlSpE =>
    exact hran h (Ran.of_unstored ((regsFrame_setPair _ (s.advance 2) .hl _).flags _))
  case addHlRr =>
    exact hran h (Ran.of_unstored ((regsFrame_setPair _ (s.advance 1) .hl _).flags _ (hz := fun _ => rfl)))
  case incRr p | decRr p | ldRrN p _ => exact hran h (ran_setPair _ _ p _)
  case addSpE => exact hran h (Ran.of_unstored (RegsFrame.refl.flags _) nofun)
  case ldSpHl => exact hran h (Ran.of_unstored RegsFrame.refl nofun)
  case ldA16Sp => exact hran h (ran_storeSp s _)
  case reti => exact hran h (ran_reti s)
  case stop x => exact hran h (ran_stop s x)
  case halt => exact hran h (ran_halt s)
  case di => exact hran h (ran_di s)
  case ei => exact hran h (ran_ei s)
  case prefixCb => exact absurd rfl hi
  all_goals
    cases h
    exact .inr (.inl ⟨_, rfl⟩)

end Sys2Proof.Machine
end

section
/-! PROOFS. The register frame and the memory frame of every instruction (`10_state.md` sections 1-3, `20_memory.md`
sections 1, 2). -/

namespace Sys2Proof.Machine

/-! ### The register frame -/

/-- No write of an I/O register counts cycles. -/
theorem State.writeIo_totalCycles {s u : State} {r : IoReg} {v : Byte} (h : s.writeIo r v = .ok u) :
    u.totalCycles = s.totalCycles := by
  cases r
  case key1 => simp only [State.writeIo] at h; split at h <;> cases h; rfl
  case hdma5 => cases h
  case lcdc => cases h; unfold State.writeLcdc; dsimp only; split_ifs <;> rfl
  case lyc => cases h; unfold State.writeLyc; split <;> rfl
  case boot => cases h; split <;> rfl
  all_goals cases h; rfl

/-- No write counts cycles. -/
theorem State.write_totalCycles {s u : State} {a : Word} {v : Byte} (h : s.write a v = .ok u) :
    u.totalCycles = s.totalCycles := by
  refine State.write_cases (P := fun t => t.totalCycles = s.totalCycles) h (fun _ => rfl) (fun _ => rfl)
    (fun _ _ _ => rfl) (fun _ _ _ => rfl) (fun _ _ => rfl) (fun _ _ _ => rfl) (fun _ _ => rfl) (fun _ => rfl)
    (fun r w _ _ hw => State.writeIo_totalCycles hw) (fun w _ _ hw => ?_)
  rw [State.dmaCopy_ok _ _ _ hw]

/-- Time passes in the devices' part of a step alone. -/
theorem closed_totalCycles (n : Nat) : Closed fun t => t.totalCycles = n where
  cpu _ _ h := h
  draw _ _ h := h
  write _ _ _ _ h hw := (State.write_totalCycles hw).trans h
  div _ h := h

/-- Settles O21: a refusal and an illegal opcode set a mark alone, and every other instruction runs within its frame. -/
theorem registerFrame : Obligations.RegisterFrame := by
  intro i s t hi h
  have htotal : t.totalCycles = s.totalCycles := exec_keeps (closed_totalCycles s.totalCycles) h rfl
  rcases exec_ran h hi with ⟨e, rfl⟩ | ⟨op, rfl⟩ | hran
  · exact ⟨fun _ _ => rfl, fun _ => rfl, fun _ => rfl, fun _ => rfl, fun _ => rfl, fun _ => rfl, fun _ _ => rfl,
      fun _ _ => rfl, fun _ => ⟨rfl, id⟩, fun _ => rfl, rfl⟩
  · exact ⟨fun _ _ => rfl, fun _ => rfl, fun _ => rfl, fun _ => rfl, fun _ => rfl, fun _ => rfl, fun _ _ => rfl,
      fun _ _ => rfl, fun _ => ⟨rfl, id⟩, fun _ => rfl, rfl⟩
  · exact ⟨hran.regs.reg, hran.regs.z, hran.regs.n, hran.regs.h, hran.regs.c, hran.sp, hran.ime, hran.delay, hran.halt,
      hran.stopped, htotal⟩

/-! ### The memory frame -/

section Bus
variable {s u t : State} {as : List Word}

theorem State.SameBus.trans (h : s.SameBus u) (h' : u.SameBus t) : s.SameBus t := by
  rw [show u = _ from h] at h'
  exact h'

theorem State.SameBus.target (h : s.SameBus t) (a : Word) : t.target a = s.target a := by
  rw [show t = _ from h]
  exact State.target_congr a rfl rfl rfl rfl rfl rfl

theorem State.SameBus.peek (h : s.SameBus t) (a : Word) : t.peek a = s.peek a := by
  rw [show t = { s.withCpu t with draws := t.draws } from h, State.peek_draws, State.peek_withCpu]

/-- Which memory is plain RAM depends on the parameters and the picture unit. -/
theorem State.plainRam_congr (hcfg : t.cfg = s.cfg) (hppu : t.ppu = s.ppu) (x : Target) :
    t.PlainRam x ↔ s.PlainRam x := by
  have hv : t.vramBusy = s.vramBusy := by unfold State.vramBusy; rw [hppu]
  have ho : t.oamBusy = s.oamBusy := by unfold State.oamBusy; rw [hppu]
  unfold State.PlainRam
  rw [hcfg, hv, ho]

theorem State.SameBus.plainRam (h : s.SameBus t) (x : Target) : t.PlainRam x ↔ s.PlainRam x := by
  rw [show t = _ from h]
  exact State.plainRam_congr rfl rfl x

theorem State.Stored.of_sameBus (h : s.SameBus u) (hu : State.Stored as u t) : State.Stored as s t := by
  cases as with
  | nil => exact h.trans hu
  | cons a as =>
    obtain ⟨v, b, w, hv, hw, ht⟩ := hu
    exact ⟨v, b, w, h.trans hv, hw, ht⟩

/-- Stores to plain RAM leave every address that reaches another byte. -/
theorem State.Stored.peek (h : State.Stored as s t) (hplain : ∀ a ∈ as, s.PlainRam (s.target a)) {b : Word}
    (hb : ∀ a ∈ as, s.target b ≠ s.target a) : t.peek b = s.peek b := by
  induction as generalizing s with
  | nil => exact State.SameBus.peek h b
  | cons a as ih =>
    obtain ⟨u, v, w, hu, hw, ht⟩ := h
    have htarget := hu.target
    have ha : u.PlainRam (u.target a) := by
      rw [hu.plainRam, htarget]
      exact hplain a List.mem_cons_self
    obtain ⟨w', hw', hwu, -, hkeep, -, hrest⟩ := State.write_plain v ha
    cases hw.symm.trans hw'
    have hwtarget (c : Word) : w.target c = s.target c := (hwu c).trans (htarget c)
    have hwplain (x : Target) : w.PlainRam x ↔ s.PlainRam x :=
      (State.plainRam_congr (congrArg State.cfg hrest) (congrArg State.ppu hrest) x).trans (hu.plainRam x)
    have hne : u.target b ≠ u.target a := by
      rw [htarget, htarget]
      exact hb a List.mem_cons_self
    have hpeek : w.peek b = u.peek b := (congrArg w.readTarget (hwu b)).trans (hkeep b hne)
    rw [ih ht (fun c hc => ?_) fun c hc => ?_, hpeek, hu.peek]
    · rw [hwplain, hwtarget]
      exact hplain c (List.mem_cons_of_mem a hc)
    · rw [hwtarget, hwtarget]
      exact hb c (List.mem_cons_of_mem a hc)

end Bus

theorem State.stores_shiftRegInstr (s : State) (r : Reg8) (k : Fin 8) : s.stores (shiftRegInstr r k) = [] := by
  fin_cases k <;> rfl

theorem State.stores_shiftHlInstr (s : State) (k : Fin 8) : s.stores (shiftHlInstr k) = [s.regs.hl] := by
  fin_cases k <;> rfl

/-- Of the secondary space, all but BIT store through HL where the second byte names no register. -/
theorem State.stores_decodeSecondary (s : State) (b : Byte) :
    s.stores (decodeSecondary b) = if quarterField b ≠ 1 ∧ zField b = 6 then [s.regs.hl] else [] := by
  have hnone : ∀ z : Fin 8, z = 6 ↔ reg8Of z = none := by decide
  simp only [hnone]
  unfold decodeSecondary
  rcases quarterField b with ⟨q, hq⟩
  interval_cases q <;> cases reg8Of (zField b)
  · exact s.stores_shiftHlInstr _
  · exact s.stores_shiftRegInstr _ _
  all_goals rfl

theorem decodeSecondary_ne_stop (b x : Byte) : decodeSecondary b ≠ .stop x := by
  intro h
  have hb := encode_decodeSecondary b
  rw [h] at hb
  cases hb

/-- An instruction of the opcode maps stores to the addresses listed for it, or to none where it is refused. -/
theorem exec_stored {i : Instr} {s t : State} (h : exec i s = .next t) (hstop : ∀ x, i ≠ .stop x) (hi : i ≠ .prefixCb) :
    ∃ as, as ⊆ s.stores i ∧ State.Stored as s t := by
  rcases exec_ran h hi with ⟨e, rfl⟩ | ⟨op, rfl⟩ | hran
  · exact ⟨[], List.nil_subset _, rfl⟩
  · exact ⟨[], List.nil_subset _, rfl⟩
  · exact ⟨_, List.Subset.refl _, hran.bus hstop⟩

theorem State.stores_subset_prefixCb {s u : State} {b : Byte} (hread : s.read s.operandAddr = .ok (b, u)) :
    u.stores (decodeSecondary b) ⊆ s.stores .prefixCb := by
  rw [State.stores_decodeSecondary, State.read_ok hread]
  rcases s.read_eq s.operandAddr with ⟨c, hpeek, hc⟩ | ⟨hpeek, -⟩ | ⟨e, -, he⟩
  · cases hread.symm.trans hc
    simp only [State.stores, hpeek]
    exact List.Subset.refl _
  · simp only [State.stores, hpeek]
    split
    · exact List.Subset.refl _
    · exact List.nil_subset _
  · cases hread.symm.trans he

/-- 0xCB stores where the instruction of its second byte does. -/
theorem exec_stored_prefixCb {s t : State} (h : exec .prefixCb s = .next t) :
    ∃ as, as ⊆ s.stores .prefixCb ∧ State.Stored as s t := by
  cases hread : s.read s.operandAddr with
  | error e =>
    unfold exec execPrefixCb at h
    rw [hread] at h
    cases h
    exact ⟨[], List.nil_subset _, rfl⟩
  | ok x =>
    obtain ⟨b, u⟩ := x
    rw [exec_prefixCb hread] at h
    cases hrun : u.runSecondary b with
    | error e =>
      rw [hrun] at h
      cases h
      exact ⟨[], List.nil_subset _, rfl⟩
    | ok w =>
      rw [hrun] at h
      cases h
      have hexec : exec (decodeSecondary b) u = .next t := by rw [exec_decodeSecondary, hrun]; rfl
      obtain ⟨as, hsub, hstored⟩ :=
        exec_stored hexec (decodeSecondary_ne_stop b) (bne_iff_ne.1 (decodeSecondary_wellFormed b))
      have hu : s.SameBus u := by rw [State.read_ok hread]; rfl
      exact ⟨as, List.Subset.trans hsub (State.stores_subset_prefixCb hread), hstored.of_sameBus hu⟩

/-- Settles O22: the addresses a run stores to are among those listed, and stores to plain RAM leave every other byte. -/
theorem memoryFrame : Obligations.MemoryFrame := by
  intro i s t h hstop
  obtain ⟨as, hsub, hstored⟩ : ∃ as, as ⊆ s.stores i ∧ State.Stored as s t := by
    by_cases hi : i = .prefixCb
    · subst hi
      exact exec_stored_prefixCb h
    · exact exec_stored h hstop hi
  refine ⟨fun hnone => ?_, fun hplain b hb => hstored.peek (fun a ha => hplain a (hsub ha)) fun a ha => hb a (hsub ha)⟩
  rw [hnone, List.subset_nil] at hsub
  subst hsub
  exact hstored

end Sys2Proof.Machine
end

section
/-! PROOFS. What a step as a whole can do: no invariant violation from a state of the invariant (`60_exceptions.md`
R1432), and the cycles of a step (R1301, R1760). -/

namespace Sys2Proof.Machine

variable {s t u w : State} {i : Instr}

/-! ### The instruction fetched -/

/-- No bytes decode to the bare byte 0xCB: the byte after it is part of the instruction. -/
theorem decodeBytes_ne_prefixCb (op b2 b3 : Byte) : decodeBytes op b2 b3 ≠ .prefixCb := by
  unfold decodeBytes
  split
  · exact bne_iff_ne.1 (decodeSecondary_wellFormed b2)
  · rename_i hop
    intro h
    have hhead := encode_decodePrimary_head op b2 (b3 ++ b2)
    rw [h] at hhead
    exact hop (Option.some.inj hhead).symm

theorem State.fetch_ne_prefixCb (h : s.fetch = .ok (i, u)) : i ≠ .prefixCb := by
  obtain ⟨op, s1, bs, -, -, rfl⟩ := State.fetch_ok h
  exact decodeBytes_ne_prefixCb _ _ _

/-! ### Faults -/

/-- The state has the fatal mark of `s`, or that of an illegal opcode. -/
def State.FaultOf (s t : State) : Prop := t.fatal = s.fatal ∨ ∃ op a, t.fatal = some (.illegalOpcode op a)

theorem exec_faultOf (h : exec i s = .next t) (hi : i ≠ .prefixCb) : s.FaultOf t := by
  rcases exec_ran h hi with ⟨e, rfl⟩ | ⟨op, rfl⟩ | hran
  · exact .inl rfl
  · exact .inr ⟨op, s.pc, rfl⟩
  · exact .inl hran.fatal

theorem State.executeOne_faultOf (h : s.executeOne exec = .next t) : s.FaultOf t := by
  unfold State.executeOne at h
  cases hfetch : s.fetch with
  | error e => rw [hfetch] at h; cases h; exact .inl rfl
  | ok x =>
    obtain ⟨i, v⟩ := x
    simp only [hfetch] at h
    cases he : exec i v with
    | fault r => rw [he] at h; cases h
    | refused r => rw [he] at h; cases h
    | next w =>
      simp only [he, afterInstr, State.countdown_eq, Host.Outcome.next.injEq] at h
      have hw := exec_faultOf he (State.fetch_ne_prefixCb hfetch)
      rw [State.fetch_draws hfetch] at hw
      subst h
      split <;> exact hw

/-- The devices raise no fault, and a mark is committed as it was raised. -/
theorem State.afterCpu_fatal {o : Host.Outcome State Fault Refusal} (h : s.afterCpu o = .next t) :
    ∃ u, o = .next u ∧ t.fatal = u.fatal := by
  cases o with
  | fault r => cases h
  | refused r => cases h
  | next u =>
    cases h
    refine ⟨u, rfl, ?_⟩
    split
    · rfl
    · exact u.elapse_fatal

/-- A scheduled picture unit is within a frame. -/
theorem Ppu.Scheduled.inFrame {p : Ppu} (h : p.Scheduled) : p.dot ≤ 455 ∧ p.ly ≤ 153 := by
  obtain ⟨-, -, -, hline⟩ := h
  cases hon : p.on with
  | true =>
    rw [if_pos hon] at hline
    exact ⟨hline.1, hline.2.1⟩
  | false =>
    rw [if_neg (by simp [hon])] at hline
    omega

/-- A machine of the invariant is in no impossible state. -/
theorem State.Inv.possible (h : s.Inv) : s.impossible = none := by
  obtain ⟨-, -, hsched, -, hlatches, hrom⟩ := h
  obtain ⟨hdot, hly⟩ := hsched.inFrame
  obtain ⟨hmin, hmax, hwin, -⟩ := hsched
  unfold State.impossible
  rw [if_neg (by omega), if_neg (by omega), if_neg (by omega), if_neg (by omega), if_neg (by omega)]
  exact congrArg (Option.map _) hlatches

/-- Settles O35: the invariant rules out the check's own record, and the CPU's part of a step raises no fault but an
illegal opcode. -/
theorem invariantViolationNeverRaised : Obligations.InvariantViolationNeverRaised := by
  intro s t hinv hs h c n
  have hfault : s.FaultOf t := by
    cases hr : s.refused with
    | some r =>
      simp only [step, State.stepWith, State.blocked, hs, hr] at h
      cases h
    | none =>
      rw [step_live ⟨hs, hr, hinv.possible⟩] at h
      obtain ⟨u, hu, htu⟩ := State.afterCpu_fatal h
      unfold State.FaultOf
      rw [htu]
      cases hidle : s.idle with
      | some o => exact .inl (State.idle_fatal (hidle.trans (by simp only [hidle] at hu; rw [hu])))
      | none =>
        simp only [hidle] at hu
        exact State.executeOne_faultOf hu
  rcases hfault with hf | ⟨op, a, hf⟩ <;> rw [hf]
  · rw [hs]
    exact nofun
  · exact nofun

/-! ### Cycles -/

/-- The devices count the cycles of the CPU's part. -/
theorem State.elapse_counts {n : Nat} (htotal : w.totalCycles = s.totalCycles) (hcycles : w.cycles = n) :
    w.elapse.totalCycles = s.totalCycles + w.elapse.cycles ∧ w.elapse.cycles = n := by
  rw [← htotal, ← hcycles]
  unfold State.elapse State.serialAdvance State.serialEvent
  split_ifs <;> exact ⟨rfl, rfl⟩

/-- Every instruction takes cycles but the bare byte 0xCB and the illegal opcodes. -/
theorem instrCycles_ne_zero {f : Flags} (hi : i ≠ .prefixCb) (hill : i ∉ illegalOpcodes.map Prod.fst) :
    instrCycles f i ≠ 0 := by
  cases i
  case prefixCb => exact absurd rfl hi
  case jpCc | jrCc | callCc | retCc => simp only [instrCycles]; split <;> decide
  case illegalD3 | illegalDB | illegalDD | illegalE3 | illegalE4 | illegalEB | illegalEC | illegalED | illegalF4
      | illegalFC | illegalFD =>
    exact absurd (by decide) hill
  all_goals exact nofun

/-- An instruction that raises no mark takes the cycles of the opcode maps. -/
theorem exec_cycles (h : exec i s = .next t) (hi : i ≠ .prefixCb) (hf : t.fatal = none) (hr : t.refused = none) :
    t.cycles = instrCycles s.regs.f i ∧ t.cycles ≠ 0 ∧ t.totalCycles = s.totalCycles := by
  have hill : i ∉ illegalOpcodes.map Prod.fst := by
    intro hmem
    obtain ⟨x, hx, rfl⟩ := List.mem_map.1 hmem
    cases h.symm.trans (exec_illegal s x hx)
    cases hf
  rcases exec_ran h hi with ⟨e, rfl⟩ | ⟨op, rfl⟩ | hran
  · cases hr
  · cases hf
  · refine ⟨hran.cycles, ?_, exec_keeps (closed_totalCycles s.totalCycles) h rfl⟩
    rw [hran.cycles]
    exact instrCycles_ne_zero hi hill

/-- A dispatch takes 20 cycles. -/
theorem State.dispatch_cycles (h : s.dispatch = .ok u) : u.cycles = 20 ∧ u.totalCycles = s.totalCycles := by
  refine ⟨?_, (closed_totalCycles s.totalCycles).dispatch (fun _ _ h => h) rfl u h⟩
  have hcycles : Holds (fun w => w.cycles = 20) s.dispatch := holds_push fun _ _ _ _ => holds_ok rfl
  exact hcycles u h

/-- A step that leaves no mark was one of a machine that may take a step. -/
theorem live_of_step_unmarked (h : step s = .next t) (hf : t.fatal = none) (hr : t.refused = none) : s.Live := by
  cases hfatal : s.fatal with
  | some r => simp only [step, State.stepWith, State.blocked, hfatal] at h; cases h
  | none =>
    cases hrefused : s.refused with
    | some e => simp only [step, State.stepWith, State.blocked, hfatal, hrefused] at h; cases h
    | none =>
      cases himpossible : s.impossible with
      | some r =>
        simp only [step, State.stepWith, State.blocked, hfatal, hrefused, himpossible] at h
        cases h
        cases hf
      | none => exact ⟨hfatal, hrefused, himpossible⟩

/-- The count the CPU's part of a step leaves, by the kind of step (`47_system.md` R1300). -/
inductive State.Counts (s w : State) : Prop
  | stopped (hstop : s.stopped = true) (hcycles : w.cycles = 0)
  | halted (hstop : s.stopped = false) (hhalt : s.halted = true) (hcycles : w.cycles = 4)
  | dispatch (hstop : s.stopped = false) (hhalt : s.halted = false) (hime : s.ime = true) (hpend : s.Pending)
      (hcycles : w.cycles = 20)
  | instr (hexec : s.Executes) (i : Instr) (u : State) (hfetch : s.fetch = .ok (i, u))
      (hcycles : w.cycles = instrCycles s.regs.f i) (hne : w.cycles ≠ 0)

/-- The CPU's part of a step that leaves no mark counts its cycles and leaves the total to the devices. -/
theorem step_counts (h : step s = .next t) (hf : t.fatal = none) (hr : t.refused = none) :
    ∃ w, t = w.elapse ∧ w.totalCycles = s.totalCycles ∧ s.Counts w := by
  rw [step_live (live_of_step_unmarked h hf hr)] at h
  obtain ⟨w, hw, hwf, hwr, rfl⟩ := State.afterCpu_unmarked h hf hr
  refine ⟨w, rfl, ?_⟩
  cases hstop : s.stopped with
  | true =>
    simp only [State.idle, hstop, if_true] at hw
    cases hw
    exact ⟨rfl, .stopped hstop rfl⟩
  | false =>
    cases hhalt : s.halted with
    | true =>
      simp only [State.idle, hstop, hhalt, if_true, Bool.false_eq_true, if_false] at hw
      cases hw
      exact ⟨rfl, .halted hstop hhalt rfl⟩
    | false =>
      by_cases htake : (s.ime && s.pending != 0) = true
      · simp only [State.idle, hstop, hhalt, htake, if_true, Bool.false_eq_true, if_false] at hw
        obtain ⟨hime, hpend⟩ := (Bool.and_eq_true _ _).mp htake
        obtain ⟨hcycles, htotal⟩ := State.dispatch_cycles (State.conclude_unrefused hw hwr)
        exact ⟨htotal, .dispatch hstop hhalt hime (s.pending_iff.1 hpend) hcycles⟩
      · simp only [State.idle, hstop, hhalt, htake, Bool.false_eq_true, if_false] at hw
        obtain ⟨i, u, v, hfetch, hv, hvf, hvr, rfl⟩ := State.executeOne_unmarked hw hwf hwr
        obtain ⟨hcycles, hne, htotal⟩ := exec_cycles hv (State.fetch_ne_prefixCb hfetch) hvf hvr
        rw [State.fetch_draws hfetch] at hcycles htotal
        rw [State.countdown_eq]
        exact ⟨htotal, .instr ⟨hstop, hhalt, by simpa using htake⟩ i u hfetch hcycles hne⟩

/-- Settles O37: each kind of step leaves its own count, and the devices' part adds it. -/
theorem cyclesAddUp : Obligations.CyclesAddUp := by
  intro s t h hf hr
  obtain ⟨w, rfl, hw, hkind⟩ := step_counts h hf hr
  obtain ⟨htotal, hcycles⟩ := State.elapse_counts hw rfl
  refine ⟨htotal, ?_⟩
  rw [hcycles]
  cases hkind with
  | stopped hstop hc => simp [State.Executes, hstop, hc]
  | halted hstop hhalt hc => simp [State.Executes, hstop, hhalt, hc]
  | dispatch hstop hhalt hime hpend hc =>
    refine ⟨by simp [hstop, hc], by simp [hhalt], fun _ _ _ _ => hc, fun hexec => ?_⟩
    exact absurd (hexec.2.2 hime) (bne_iff_ne.1 (s.pending_iff.2 hpend))
  | instr hexec i u hfetch hc hne =>
    obtain ⟨hstop, hhalt, hnone⟩ := hexec
    refine ⟨by simp [hstop, hne], by simp [hhalt], fun _ _ hime hpend => ?_, fun _ j v hj => ?_⟩
    · exact absurd (hnone hime) (bne_iff_ne.1 (s.pending_iff.2 hpend))
    · cases hfetch.symm.trans hj
      exact hc

end Sys2Proof.Machine
end
